-- ==== Sys2Proof/Word.lean ====
section
/-! DEFINITION. The word types of the part: a host word is 32 bits, ports are numbered 0 to 7. -/

namespace Sys2Proof

/-- A word is 32 bits (00_scope.md, Conventions). -/
abbrev Word := BitVec 32

/-- A stream port, 0 to 7 (Table 0-1). -/
abbrev PortId := Fin 8

end Sys2Proof
end

