-- ==== Sys2Proof/Syntax.lean ====
section
/-! DEFINITION. The commands of the part: one constructor of `Instr` for each row of opcode_table.json. -/

namespace Sys2Proof

/-- What the CLASS field of a CONFIG write holds: one of the two classes, or a value that is neither (R44). -/
inductive ClassCode where
  | urgent
  | normal
  | undefinedCode
  deriving DecidableEq, Repr, Inhabited

/-- The fields of a PORTp CONFIG word (Table 2-6). The spec gives the word no bit layout, so a CONFIG write
carries its fields (log 5). A quota field holds any number (R170); REPEAT LIMIT and STALL LIMIT are as wide as
their ranges, 0 to 7 and 0 to 4095. -/
structure ConfigFields where
  cls : ClassCode
  burstQuota : Nat
  repeatLimit : BitVec 3
  stallLimit : BitVec 12
  queueQuota : Nat
  mappedOnly : Bool
  patchPermit : Bool
  attnHalt : Bool
  attnAttach : Bool
  attnPause : Bool
  deriving DecidableEq, Repr, Inhabited

/-- How a host access of the data path ends (R95, R169). For a write the word of `data` means nothing. -/
inductive AccessOutcome where
  | data (w : Word)
  | error
  deriving DecidableEq, Repr

/-- The two sizes of a disturbance event (R123). -/
inductive DisturbanceSize where
  | oneBit
  | twoBits
  deriving DecidableEq, Repr

/-- The commands. `port : BitVec 4` is the port field of a COMMAND write, which may be 8 or more (Table 11-6);
`p : PortId` names the port at which an event or a register access happens. -/
inductive Instr where
  /-- POST (R5). -/
  | post (port : BitVec 4)
  /-- WITHDRAW (R34): the argument field is the TAG. -/
  | withdraw (port : BitVec 4) (tag : BitVec 16)
  /-- ENABLE (R27). -/
  | enable (port : BitVec 4)
  /-- DISABLE (R28). -/
  | disable (port : BitVec 4)
  /-- PAUSE (R29). -/
  | pause (port : BitVec 4)
  /-- RESUME-RECORD (R30). -/
  | resumeRecord (port : BitVec 4)
  /-- RESUME-MESSAGE (R31). -/
  | resumeMessage (port : BitVec 4)
  /-- FLUSH (R32). -/
  | flush (port : BitVec 4)
  /-- PORT RESET (R37). -/
  | portReset (port : BitVec 4)
  /-- PATCH (R130): the port field is the format port. -/
  | patch (port : BitVec 4)
  /-- FENCE (R138). -/
  | fence
  /-- POP (R145). -/
  | pop
  /-- SOFT RESET (R167). -/
  | softReset
  /-- A COMMAND write with an undefined opcode (R166): 0, 13 or 14. -/
  | badCommand (opcode : BitVec 4)
  /-- A read of ACKPEEK (R157); `narrow` when it is narrower than 32 bits (R162). -/
  | ackpeek (narrow : Bool)
  /-- A read of ACKNEST (R158). -/
  | acknest (narrow : Bool)
  /-- A write of EOS (R159); the value is ignored. -/
  | eos (v : Word)
  /-- A write of MAPDATA (R121). -/
  | mapdataWrite (v : Word)
  /-- A read of MAPDATA (R122). -/
  | mapdataRead (narrow : Bool)
  /-- A write of PORTp CONFIG (R44). -/
  | configWrite (p : PortId) (f : ConfigFields)
  /-- A write of PORTp WINDOW (R44). -/
  | windowWrite (p : PortId) (v : Word)
  /-- A write of RQCTRL (R151). -/
  | rqctrlWrite (v : Word)
  /-- A write of GCTRL (R164). -/
  | gctrlWrite (v : Word)
  /-- A write of PORTp STATUS (R42, R163). -/
  | portStatusClear (p : PortId) (v : Word)
  /-- A write of RQSTAT (R151, R163). -/
  | reportDueClear (v : Word)
  /-- A write of MAPSTAT (R125, R163). -/
  | mapstatClear (v : Word)
  /-- A write of ASTAT (R160, R163). -/
  | astatClear (v : Word)
  /-- A write of GSTAT (R163, R165). -/
  | writeIgnoredClear (v : Word)
  /-- A write to a register without behaviour of its own, or a narrow, unlisted or read-only write (R162). -/
  | registerWrite (offset : BitVec 8) (narrow : Bool) (v : Word)
  /-- The release of the RESET line (R168). -/
  | powerOnReset
  /-- The map initialisation ends (R112). -/
  | initEnd
  /-- A rise of ATT (R71). -/
  | attach (p : PortId)
  /-- A fall of ATT (R72). -/
  | detach (p : PortId)
  /-- A rise of FLT (R74). -/
  | flt (p : PortId)
  /-- A rise of CNF (R75). -/
  | cnf (p : PortId)
  /-- A rise of RPT (R76, R77). -/
  | rpt (p : PortId)
  /-- RDY becomes present (R86). -/
  | rdyRise (p : PortId)
  /-- RDY becomes absent (R86). -/
  | rdyFall (p : PortId)
  /-- A burst takes one inbound word with its END mark (R68). -/
  | inboundWordTaken (p : PortId) (w : Word) (endMark : Bool)
  /-- A burst sends the outbound word in hand (R69). -/
  | outboundWordSent (p : PortId)
  /-- Resync discard takes one inbound word with its END mark (R82). -/
  | discardWord (p : PortId) (w : Word) (endMark : Bool)
  /-- The arbiter grants the data path (R104). -/
  | grant
  /-- The map unit takes the lookup request of a port (R115). -/
  | lookup (p : PortId)
  /-- A data-word host access ends (R95). -/
  | hostAccessEnd (outcome : AccessOutcome)
  /-- A read of the patch fetch ends (R133). -/
  | patchReadEnd (outcome : AccessOutcome)
  /-- A RESETTING port without an access under way releases the data path (R98). -/
  | resettingRelease (p : PortId)
  /-- A disturbance of a map entry (R123). -/
  | disturbance (index : Fin 1024) (size : DisturbanceSize)
  /-- The stall timer of a port expires (R81). -/
  | stallExpiry (p : PortId)
  /-- The holdoff timer expires (R150). -/
  | holdoffExpiry
  /-- The second 1 µs step after CAN was last driven (R79). -/
  | canRelease (p : PortId)
  /-- A time unit step of the time base (R80, R150). -/
  | timeUnitStep
  /-- The map initialisation writes its next entry (R112). -/
  | initEntryWritten
  /-- The RESET line is asserted (R168). -/
  | resetAsserted
  deriving DecidableEq, Repr

end Sys2Proof
end

