-- ==== Sys2Proof/Config.lean ====
section
/-! DEFINITION. What an implementation fixes and the spec leaves open: the bit layout of PORTp CONFIG and the
fields of MAPSTAT that have no stated value. -/

namespace Sys2Proof

/-- DESIGN CHOICE (log 5). What a 32-bit read of PORTp CONFIG returns for its fields: the spec says that CONFIG
holds the fields of Table 2-6 "in one word" and gives no bits, so the layout is free. -/
opaque Config.configWord : ConfigFields → Word

/-- DESIGN CHOICE (log 5). The fields that a 32-bit word written to PORTp CONFIG carries: the free layout, read
the other way. Used only by the decoder of bus writes. -/
opaque Config.configFieldsOf : Word → ConfigFields

/-- DESIGN CHOICE (log 20). What MAPSTAT bits 14:2 (cause, count and origin) show while the last outcome is NONE: the
spec states no value, so it is free. -/
opaque Config.mapstatNoOutcome : BitVec 13

/-- DESIGN CHOICE (log 20). What the cause field of MAPSTAT shows for an outcome APPLIED, which has no cause: free. -/
opaque Config.mapstatNoCause : BitVec 3

end Sys2Proof
end

