-- ==== Sys2Proof/Decode.lean ====
section
/-! DEFINITION. From bits to commands: the bit fields of a register word, the command that a COMMAND word spells
(Tables 11-2 and 11-6), the command that a write or a read of the window is (Table 11-1), and the table's words.
No row of opcode_table.json gives bits, so no word of the table spells a command. -/

namespace Sys2Proof

/-- Bits `lo + n - 1 : lo` of a word as a number. -/
def field (w : Word) (lo n : Nat) : Nat := (w.toNat >>> lo) % 2 ^ n

/-- Bit `i` of a word. -/
def flag (w : Word) (i : Nat) : Bool := w.getLsbD i

/-- The bits `lo + n - 1 : lo` of a word. -/
def bits (w : Word) (lo n : Nat) : BitVec n := w.extractLsb' lo n

/-- The command that a 32-bit write of COMMAND is: opcode 3:0, port 7:4, argument 31:16 (Tables 11-2, 11-6). -/
def commandOfWord (w : Word) : Instr :=
  let port := bits w 4 4
  match (bits w 0 4).toNat with
  | 1 => .post port
  | 2 => .withdraw port (bits w 16 16)
  | 3 => .enable port
  | 4 => .disable port
  | 5 => .pause port
  | 6 => .resumeRecord port
  | 7 => .resumeMessage port
  | 8 => .flush port
  | 9 => .portReset port
  | 10 => .patch port
  | 11 => .fence
  | 12 => .pop
  | 15 => .softReset
  | _ => .badCommand (bits w 0 4)

/-- The window registers whose 32-bit writes are rows of the table of their own (Table 11-1): the offset is split
into the port register blocks (80h and above) and the rest. -/
def writeRow (offset : BitVec 8) (v : Word) : Option Instr :=
  match offset.toNat with
  | 0x04 => some (.gctrlWrite v)
  | 0x08 => some (.writeIgnoredClear v)
  | 0x0C => some (commandOfWord v)
  | 0x30 => some (.rqctrlWrite v)
  | 0x34 => some (.reportDueClear v)
  | 0x3C => some (.mapdataWrite v)
  | 0x40 => some (.mapstatClear v)
  | 0x60 => some (.eos v)
  | 0x64 => some (.astatClear v)
  | n =>
    if n < 0x80 then none
    else
      let p : PortId := ⟨(n - 0x80) / 16 % 8, Nat.mod_lt _ (by decide)⟩
      match n % 16 with
      | 0 => some (.portStatusClear p v)
      | 4 => some (.configWrite p (Config.configFieldsOf v))
      | 8 => some (.windowWrite p v)
      | _ => none

/-- The command that a bus write of the window is (R162): a write narrower than 32 bits, or one to a register
without a row of its own, is a REGISTER_WRITE. -/
def windowWriteOf (offset : BitVec 8) (narrow : Bool) (v : Word) : Instr :=
  if narrow then .registerWrite offset narrow v
  else (writeRow offset v).getD (.registerWrite offset narrow v)

/-- The command that a bus read of the window is, for the three registers whose reads are rows of the table;
every other read changes nothing (R162). -/
def windowReadOf (offset : BitVec 8) (narrow : Bool) : Option Instr :=
  match offset.toNat with
  | 0x58 => some (.ackpeek narrow)
  | 0x5C => some (.acknest narrow)
  | 0x3C => some (.mapdataRead narrow)
  | _ => none

/-- The command that a word spells by the bits of opcode_table.json: no row of the table gives bits. -/
def decodeTableWord (_nbits _w : Nat) : Option Instr := none

end Sys2Proof
end

