-- ==== Sys2Proof/Machine/State.lean ====
section
/-! DEFINITION. The state of the part as plain data, block by block (Table 0-2), the reasons a step can stop, and
the state right after power-on reset. -/

namespace Sys2Proof.Machine

/-! ### Move records (chapter 1) -/

/-- Direction of a data record, of a message and of the DIR line (Table 0-4). -/
inductive Direction where
  | inbound
  | outbound
  deriving DecidableEq, Repr

/-- The work of a record with the fields that Table 1-2 keeps for its kind (R1, R2): a FILL is OUTBOUND and a DRAIN
INBOUND by kind, an OUTBOUND MOVE keeps SHORT-OK clear, a control record has no direction and no CONTINUE. -/
inductive Work where
  | move (dir : Direction) (length : Nat) (address : Word) (mapped cont shortOk : Bool)
  | fill (length : Nat) (pattern : Word) (cont : Bool)
  | drain (length : Nat) (cont shortOk : Bool)
  | mark
  | patch (address : Word)
  deriving DecidableEq, Repr

/-- A record as it stands in its slot (Table 1-1). -/
structure Record where
  work : Work
  reportAlways : Bool
  urgent : Bool
  tag : BitVec 16
  deriving DecidableEq, Repr

/-- Stage of an occupied slot (R14). -/
inductive Stage where
  | queued
  | current
  | ended
  deriving DecidableEq, Repr

/-- An occupied slot of the pool (R14). Slots carry no number that can be seen, so a slot is its place in the queue
of its port (log 4). -/
structure Slot where
  record : Record
  stage : Stage
  deriving DecidableEq, Repr

/-! ### Record ends and reports (chapters 3 and 9) -/

/-- Status codes of a record end (Table 3-1); FLUSHED is the status of a PORT entry alone. -/
inductive Status where
  | done
  | short
  | skipped
  | aborted
  | marked
  | patched
  | underrun
  | overrun
  | repeatLimit
  | periphFault
  | stalled
  | detached
  | mapFault
  | busError
  | patchRejected
  deriving DecidableEq, Repr

/-- Fault causes of a lookup (Table 7-2). -/
inductive LookupCause where
  | outsideWindow
  | poisoned
  | invalid
  | noWrite
  | noRead
  deriving DecidableEq, Repr

/-- Causes of a patch rejection (Table 8-3). -/
inductive PatchCause where
  | badCount
  | badFormat
  | badIndex
  | busError
  deriving DecidableEq, Repr

/-- DETAIL of a record report (Table 3-4). -/
inductive Detail where
  | absent
  | mapFault (cause : LookupCause) (page : Nat)
  | patch (cause : PatchCause)
  deriving DecidableEq, Repr

/-- A report entry (Table 9-2). -/
inductive Report where
  | record (port : PortId) (status : Status) (tag : BitVec 16) (moved : Nat) (messageEnd : Bool) (repeats : Nat)
      (urgent : Bool) (detail : Detail)
  | flushed (port : PortId) (count : Nat)
  deriving DecidableEq, Repr

/-- An entry of the report queue with its announcement mark (R149). -/
structure ReportEntry where
  report : Report
  announced : Bool
  deriving DecidableEq, Repr

/-- The report queue (Table 9-1). The unannounced count is the count of unannounced entries (log 21). -/
structure ReportQueue where
  entries : List ReportEntry
  blocked : List PortId
  holdoffTimer : Option Nat
  reportDue : Bool
  threshold : Nat
  holdoff : Nat
  deriving DecidableEq, Repr

/-! ### Ports (chapters 2, 4 and 5) -/

/-- Port states (Table 2-2). -/
inductive PortState where
  | disabled
  | idle
  | running
  | paused
  | halted
  | blocked
  | resetting
  deriving DecidableEq, Repr

/-- Burst phases (R20). -/
inductive Phase where
  | none
  | waiting
  | transferring
  | confirming
  deriving DecidableEq, Repr

/-- CLASS of a port at the arbiter (Table 2-6). -/
inductive PortClass where
  | urgent
  | normal
  deriving DecidableEq, Repr

/-- PORTp CONFIG (Table 2-6). -/
structure PortConfig where
  cls : PortClass
  burstQuota : Nat
  repeatLimit : BitVec 3
  stallLimit : BitVec 12
  queueQuota : Nat
  mappedOnly : Bool
  patchPermit : Bool
  attnHalt : Bool
  attnAttach : Bool
  attnPause : Bool
  deriving DecidableEq, Repr

/-- PORTp WINDOW (R114). -/
structure PortWindow where
  base : Nat
  span : Nat
  deriving DecidableEq, Repr

/-- A valid latch: one translation (R118). -/
structure Latch where
  page : Nat
  frame : BitVec 20
  deriving DecidableEq, Repr

/-- A cut of a MOVE burst that waits for the host access under way (R73, R77). -/
inductive Cut where
  | detached
  | periphFault
  | repeatRequest
  deriving DecidableEq, Repr

/-- One word exchange on the port lines: STB with DAT and END (R67). -/
structure Exchange where
  dir : Direction
  word : Word
  endMark : Bool
  deriving DecidableEq, Repr

/-- The port context (Table 2-1, R84) with the port's lines (Table 4-1). -/
structure Port where
  state : PortState
  queue : List Slot
  msgOpen : Bool
  skip : Bool
  msgDir : Direction
  wordsPassed : Bool
  endPassed : Bool
  resync : Bool
  pausePending : Bool
  abortPending : Bool
  phase : Phase
  burstStart : Nat
  position : Nat
  burstLength : Nat
  exchanged : Nat
  /-- MODEL (log 29): the last burst began in the step of a CNF, and no RPT has met it since (R78). -/
  answered : Bool
  repeats : Nat
  moved : Nat
  /-- The current record's words included an END (MESSAGE END of an inbound report, R60). -/
  endTaken : Bool
  /-- The outbound word read and not yet sent (R69, R93). -/
  inHand : Option Word
  /-- A lookup request stands at the map unit (R84, R90). -/
  lookupRequest : Bool
  cut : Option Cut
  latch : Option Latch
  /-- Stopped, or the time units counted (R80). -/
  stallTimer : Option Nat
  discarded : Nat
  attached : Bool
  haltEvent : Bool
  attachChange : Bool
  pauseReached : Bool
  config : PortConfig
  window : PortWindow
  /-- The report held with an ENDED slot (R60, R62). -/
  heldReport : Option Report
  /-- The DIR line (R66). -/
  dirLine : Direction
  /-- The CAN line: deasserted, or asserted with the 1 µs steps since it was last driven (R79). -/
  can : Option Nat
  /-- The level of ATT (R65). -/
  attLine : Bool
  /-- The level of RDY (R65). -/
  rdyLine : Bool
  /-- MODEL (log 2): the last word exchange on the lines. -/
  lines : Option Exchange
  deriving DecidableEq, Repr

/-! ### Arbiter and data path (chapters 5, 6 and 11) -/

/-- HOLDER of the data path (Table 6-1). -/
inductive Holder where
  | none
  | port (p : PortId)
  | patchFetch
  deriving DecidableEq, Repr

/-- Arbiter state (Table 6-1). -/
structure Arbiter where
  holder : Holder
  urgentPointer : PortId
  normalPointer : PortId
  urgentRun : Nat
  deriving DecidableEq, Repr

/-- A host access of the data path: a whole word at a word-aligned physical byte address (R95, R169). -/
inductive Access where
  | read (address : Nat)
  | write (address : Nat) (word : Word)
  deriving DecidableEq, Repr

/-! ### Map unit (chapters 7 and 8) -/

/-- Hidden corruption of a map entry (R111, R123). -/
inductive Disturbance where
  | none
  | oneBit
  | twoBits
  deriving DecidableEq, Repr

/-- What is written to a map entry (R111). -/
structure MapContents where
  frame : BitVec 20
  valid : Bool
  read : Bool
  write : Bool
  deriving DecidableEq, Repr

/-- A map entry (Table 7-1). -/
structure MapEntry where
  contents : MapContents
  poisoned : Bool
  disturbance : Disturbance
  deriving DecidableEq, Repr

/-- Who a patch was claimed by (R129). -/
inductive Origin where
  | host
  | port (p : PortId)
  deriving DecidableEq, Repr

/-- Outcome of the last patch (R136). -/
inductive PatchOutcome where
  | none
  | applied (count : Nat) (origin : Origin)
  | rejected (cause : PatchCause) (count : Nat) (origin : Origin)
  deriving DecidableEq, Repr

/-- The patch in flight (Table 8-2). -/
structure Flight where
  origin : Origin
  /-- The PATCH record the claim was made for has not been dropped (R136). -/
  owned : Bool
  address : Word
  formatPort : PortId
  base : Nat
  span : Nat
  /-- Phase FETCHING, else REQUESTING (R129). -/
  fetching : Bool
  wordsRead : Nat
  /-- COUNT and FORMAT of the header, once it has been read (R133). -/
  count : Nat
  relative : Bool
  /-- The resolved index that waits for its entry word (R134). -/
  index : Option Nat
  /-- Staging: the pairs fetched whole, in block order (R134). -/
  staging : List (Nat × MapContents)
  deriving DecidableEq, Repr

/-- A set of ports. -/
abbrev PortSet := Vector Bool 8

/-- The map unit (Tables 7-1, 8-2 and 8-4). `entries` lists, keys strictly rising, the entries that are not as the
initialisation leaves them (log 24). -/
structure MapUnit where
  entries : List (Nat × MapEntry)
  /-- The next entry that the initialisation writes (R112). -/
  initNext : Nat
  mapIndex : Nat
  corrections : Nat
  patchEnd : Bool
  fenceEnd : Bool
  correctedFlag : Bool
  poisonedFlag : Bool
  mapEn : BitVec 4
  patchAddr : Word
  engine : Option Flight
  waiting : PortSet
  lastOutcome : PatchOutcome
  fencePending : Bool
  fenceSet : PortSet
  deriving DecidableEq, Repr

/-! ### Attention unit, time base and window (chapters 10 and 11) -/

/-- The attention unit (Table 10-2). CSL and stack entries are 0 to 3, or 4 for BASE (R154); the stack lists the top
first. -/
structure Attention where
  alevel : BitVec 20
  amask : BitVec 4
  csl : Nat
  stack : List Nat
  overflow : Bool
  underflow : Bool
  deriving DecidableEq, Repr

/-- The time base (R164). -/
structure TimeBase where
  /-- CLK cycles counted in the 1 µs step under way. -/
  clkCount : Nat
  /-- The count at which the step under way ends. -/
  stepLength : Nat
  /-- 1 µs steps counted in the time unit under way. -/
  stepCount : Nat
  deriving DecidableEq, Repr

/-- Reasons of RESULT (Table 11-3); `accepted` is code 0. -/
inductive Reason where
  | accepted
  | badCommand
  | badPort
  | wrongState
  | busy
  | poolEmpty
  | quota
  | badKind
  | badLength
  | misaligned
  | unmappedDenied
  | patchDenied
  | openMessage
  | directionMismatch
  | noMatch
  | reportFull
  | reportEmpty
  deriving DecidableEq, Repr

/-- RESULT (R166). -/
structure CommandResult where
  opcode : BitVec 4
  reason : Reason
  value : Nat
  deriving DecidableEq, Repr

/-- The host window's own registers (R4, R164 to R166). -/
structure HostWindow where
  attnEnable : Bool
  tbdiv : BitVec 8
  initBusy : Bool
  resetBusy : Bool
  writeIgnored : Bool
  result : CommandResult
  stage0 : Word
  stage1 : Word
  stage2 : Word
  stage3 : Word
  /-- The RESET line is held (R168). -/
  resetHeld : Bool
  /-- MODEL (log 1): the word returned by the last read command. -/
  hostRead : Word
  deriving DecidableEq, Repr

/-- The state of the part, and the queue of the commands that wait (first in, first out). -/
structure State where
  win : HostWindow
  ports : Vector Port 8
  arbiter : Arbiter
  /-- The host access under way on the data path (R95). -/
  access : Option Access
  map : MapUnit
  reports : ReportQueue
  attn : Attention
  time : TimeBase
  pending : List Instr
  deriving DecidableEq, Repr

/-- Reasons to stop with a fault: none. Every window access completes with data (R162), and every error of the part
is a status, a flag or a refusal in RESULT; nobody raises a fault. -/
inductive Fault where
  deriving DecidableEq, Repr

/-- Reasons to refuse a command. -/
inductive Refusal where
  /-- The command has no meaning in the model. Safe. No arm of `exec` answers with it. -/
  | notModelled (mnemonic : String)
  deriving DecidableEq, Repr

/-! ### Reset values -/

/-- Defaults of Table 2-6. -/
def PortConfig.defaults : PortConfig where
  cls := .normal
  burstQuota := 16
  repeatLimit := 3
  stallLimit := 0
  queueQuota := 8
  mappedOnly := true
  patchPermit := false
  attnHalt := false
  attnAttach := false
  attnPause := false

/-- A port after power-on reset (Table 2-1) with ATT and RDY absent. DESIGN CHOICE (log 3): the spec gives the
levels of the input lines no reset value. -/
def Port.powerOn : Port where
  state := .disabled
  queue := []
  msgOpen := false
  skip := false
  msgDir := .inbound
  wordsPassed := false
  endPassed := false
  resync := false
  pausePending := false
  abortPending := false
  phase := .none
  burstStart := 0
  position := 0
  burstLength := 0
  exchanged := 0
  answered := false
  repeats := 0
  moved := 0
  endTaken := false
  inHand := none
  lookupRequest := false
  cut := none
  latch := none
  stallTimer := none
  discarded := 0
  attached := false
  haltEvent := false
  attachChange := false
  pauseReached := false
  config := .defaults
  window := ⟨0, 0⟩
  heldReport := none
  dirLine := .inbound
  can := none
  attLine := false
  rdyLine := false
  lines := none

/-- The empty set of ports. -/
def PortSet.empty : PortSet := Vector.replicate 8 false

/-- The arbiter after power-on reset (Table 6-1). -/
def Arbiter.powerOn : Arbiter := ⟨.none, 7, 7, 0⟩

/-- The map unit after power-on reset (Tables 7-1, 8-2, 8-4), its initialisation at entry 0 (R112). -/
def MapUnit.powerOn : MapUnit where
  entries := []
  initNext := 0
  mapIndex := 0
  corrections := 0
  patchEnd := false
  fenceEnd := false
  correctedFlag := false
  poisonedFlag := false
  mapEn := 0
  patchAddr := 0
  engine := none
  waiting := .empty
  lastOutcome := .none
  fencePending := false
  fenceSet := .empty

/-- The report queue after power-on reset (Table 9-1). -/
def ReportQueue.powerOn : ReportQueue := ⟨[], [], none, false, 1, 0⟩

/-- The attention unit after power-on reset (Table 10-2): every LEVEL 3, CSL BASE. -/
def Attention.powerOn : Attention := ⟨0xFFFFF, 0, 4, [], false, false⟩

/-- The time base after a reset (R164). -/
def TimeBase.powerOn : TimeBase := ⟨0, 33, 0⟩

/-- The window after power-on reset (Table 11-5), INIT BUSY set. -/
def HostWindow.powerOn : HostWindow where
  attnEnable := false
  tbdiv := 33
  initBusy := true
  resetBusy := false
  writeIgnored := false
  result := ⟨0, .accepted, 0⟩
  stage0 := 0
  stage1 := 0
  stage2 := 0
  stage3 := 0
  resetHeld := false
  hostRead := 0

/-- The part right after power-on reset: RESET released, the map initialisation about to begin (R112, R168). -/
def State.reset : State where
  win := .powerOn
  ports := Vector.replicate 8 .powerOn
  arbiter := .powerOn
  access := none
  map := .powerOn
  reports := .powerOn
  attn := .powerOn
  time := .powerOn
  pending := []

end Sys2Proof.Machine
end

