-- ==== Sys2Proof/Machine/Operands.lean ====
section
/-! DEFINITION. Operand forms: the fields of a record and of the staging image, word addresses and burst lengths,
and the words that carry map entries and windows. -/

namespace Sys2Proof.Machine

/-! ### Fields of a record (Tables 1-1 and 1-2) -/

/-- Direction of a data record; a control record has none (R1). -/
def Work.dir : Work → Option Direction
  | .move d _ _ _ _ _ => some d
  | .fill _ _ _ => some .outbound
  | .drain _ _ _ => some .inbound
  | .mark => none
  | .patch _ => none

/-- LENGTH of a data record; 0 for a control record. -/
def Work.length : Work → Nat
  | .move _ n _ _ _ _ => n
  | .fill n _ _ => n
  | .drain n _ _ => n
  | .mark => 0
  | .patch _ => 0

/-- CONTINUE; a control record does not carry it (R2). -/
def Work.cont : Work → Bool
  | .move _ _ _ _ c _ => c
  | .fill _ _ c => c
  | .drain _ c _ => c
  | .mark => false
  | .patch _ => false

/-- SHORT-OK; clear where it is not kept (R1). -/
def Work.shortOk : Work → Bool
  | .move _ _ _ _ _ k => k
  | .drain _ _ k => k
  | .fill _ _ _ => false
  | .mark => false
  | .patch _ => false

/-- ADDRESS of a MOVE; 0 for the other data kinds, which have none. -/
def Work.address : Work → Word
  | .move _ _ a _ _ _ => a
  | .patch a => a
  | .fill _ _ _ => 0
  | .drain _ _ _ => 0
  | .mark => 0

/-- MAPPED of a MOVE. -/
def Work.mapped : Work → Bool
  | .move _ _ _ m _ _ => m
  | .fill _ _ _ => false
  | .drain _ _ _ => false
  | .mark => false
  | .patch _ => false

/-- MOVE is the one kind that uses the data path (R2). -/
def Work.isMove : Work → Bool
  | .move _ _ _ _ _ _ => true
  | .fill _ _ _ => false
  | .drain _ _ _ => false
  | .mark => false
  | .patch _ => false

/-- MOVE, FILL and DRAIN are data records (R2). -/
def Work.isData (w : Work) : Bool := w.dir.isSome

/-! ### The staging image (Table 11-6) -/

/-- DIRECTION of the image. -/
def stagedDirection (w : HostWindow) : Direction := if flag w.stage0 3 then .outbound else .inbound

/-- The fields of the image that Table 1-2 keeps for its KIND, or none for an undefined KIND (R1, R6). -/
def stagedWork (w : HostWindow) : Option Work :=
  let length := field w.stage1 0 16
  let cont := flag w.stage0 5
  let shortOk := flag w.stage0 6
  match field w.stage0 0 3 with
  | 1 => some (.move (stagedDirection w) length w.stage2 (flag w.stage0 4) cont
      (shortOk && stagedDirection w == .inbound))
  | 2 => some (.fill length w.stage3 cont)
  | 3 => some (.drain length cont shortOk)
  | 4 => some .mark
  | 5 => some (.patch w.stage2)
  | _ => none

/-- The record that a POST of the image would keep (R1): a MARK is kept with REPORT ALWAYS. -/
def stagedRecord (w : HostWindow) : Option Record :=
  (stagedWork w).map fun work =>
    { work := work
      reportAlways := flag w.stage0 7 || work == .mark
      urgent := flag w.stage0 8
      tag := bits w.stage0 16 16 }

/-! ### The POST checks (Table 1-3) -/

/-- The direction in which the message at the port's tail is open, if it is (R9). -/
def Port.tailOpen (P : Port) : Option Direction :=
  match P.queue.getLast? with
  | some slot => if slot.record.work.cont then slot.record.work.dir else none
  | none => if P.msgOpen || P.skip then some P.msgDir else none

/-- Checks 4 to 6 of Table 1-3, which depend on the image alone (R6, R7). -/
def Work.imageReason : Work → Reason
  | .move _ n a _ _ _ =>
    if n = 0 ∨ 16384 < n then .badLength
    else if a.toNat % 4 ≠ 0 then .misaligned
    else if 2 ^ 32 < a.toNat + 4 * n then .badLength
    else .accepted
  | .fill n _ _ => if n = 0 ∨ 16384 < n then .badLength else .accepted
  | .drain n _ _ => if n = 0 ∨ 16384 < n then .badLength else .accepted
  | .mark => .accepted
  | .patch a => if a.toNat % 4 ≠ 0 then .misaligned else .accepted

/-- Checks 7 and 8 of Table 1-3: the port's permissions (R8). -/
def Work.permissionReason (c : PortConfig) : Work → Reason
  | .move _ _ _ mapped _ _ => if !mapped && c.mappedOnly then .unmappedDenied else .accepted
  | .patch _ => if c.patchPermit then .accepted else .patchDenied
  | .fill _ _ _ => .accepted
  | .drain _ _ _ => .accepted
  | .mark => .accepted

/-- Checks 9 and 10 of Table 1-3: a control record meets a closed tail, a data record a closed one or one open in its
own direction (R9). -/
def Work.tailReason (tail : Option Direction) (w : Work) : Reason :=
  match tail with
  | none => .accepted
  | some d =>
    match w.dir with
    | none => .openMessage
    | some d' => if d' = d then .accepted else .directionMismatch

/-- The first failing check of 2 to 12 of Table 1-3, in order, or `accepted` (R5). `occupied` is the number of
occupied slots of the pool. -/
def postReason (w : HostWindow) (P : Port) (occupied : Nat) : Reason :=
  if P.state = .resetting then .busy
  else
    match stagedRecord w with
    | none => .badKind
    | some r =>
      if r.work.imageReason ≠ .accepted then r.work.imageReason
      else if r.work.permissionReason P.config ≠ .accepted then r.work.permissionReason P.config
      else if r.work.tailReason P.tailOpen ≠ .accepted then r.work.tailReason P.tailOpen
      else if P.config.queueQuota ≤ P.queue.length then .quota
      else if 64 ≤ occupied then .poolEmpty
      else .accepted

/-! ### Addresses and burst lengths (R88, R89) -/

/-- Page size in bytes. -/
def pageBytes : Nat := 4096

/-- The address of the word at position `n` of a MOVE (R89). -/
def Work.wordAddress (w : Work) (n : Nat) : Nat := w.address.toNat + 4 * n

/-- Words before the next page boundary of an address (R88). -/
def wordsToBoundary (a : Nat) : Nat := (pageBytes - a % pageBytes) / 4

/-- The burst length fixed at a burst start at a position (R88): quota, words remaining, and for a MOVE the page. -/
def Work.burstLength (w : Work) (quota position : Nat) : Nat :=
  let rest := min quota (w.length - position)
  if w.isMove then min rest (wordsToBoundary (w.wordAddress position)) else rest

/-- The logical page of the word at a position (R89). -/
def Work.pageAt (w : Work) (n : Nat) : Nat := w.wordAddress n / pageBytes

/-- The physical address of the word at a position, by the latch for a mapped record (R89). A mapped burst whose
translation is settled has a valid latch (R90). -/
def Work.physicalAddress (w : Work) (latch : Option Latch) (n : Nat) : Nat :=
  if w.mapped then
    match latch with
    | some l => l.frame.toNat * pageBytes + w.wordAddress n % pageBytes
    | none => w.wordAddress n % pageBytes
  else w.wordAddress n

/-! ### Map words (Table 11-8) -/

/-- FRAME, VALID, READ and WRITE of a MAPDATA or patch entry word. -/
def mapContentsOfWord (w : Word) : MapContents :=
  ⟨bits w 12 20, flag w 0, flag w 1, flag w 2⟩

/-- 1 for a set flag, 0 for a clear one. -/
def bitOf (b : Bool) : Nat := if b then 1 else 0

/-- The word that a MAPDATA read returns for an entry. -/
def MapEntry.toWord (e : MapEntry) : Word :=
  BitVec.ofNat 32 (bitOf e.contents.valid + 2 * bitOf e.contents.read + 4 * bitOf e.contents.write
    + 8 * bitOf e.poisoned + 2 ^ 12 * e.contents.frame.toNat)

/-- BASE and SPAN of a WINDOW word (Table 11-9). -/
def windowOfWord (w : Word) : PortWindow := ⟨field w 0 10, field w 16 11⟩

/-- The window map keeps a window inside the table: SPAN and BASE + SPAN not above 1024 (R44, R114). -/
def PortWindow.inRange (w : PortWindow) : Bool := w.span ≤ 1024 && w.base + w.span ≤ 1024

/-! ### CONFIG fields (Table 2-6) -/

/-- The stored CONFIG of fields in range: quotas 1 to 64 and a defined CLASS (R44), or none. -/
def configOfFields (f : ConfigFields) : Option PortConfig :=
  if f.burstQuota = 0 ∨ 64 < f.burstQuota ∨ f.queueQuota = 0 ∨ 64 < f.queueQuota then none
  else
    let stored (c : PortClass) : PortConfig :=
      { cls := c, burstQuota := f.burstQuota, repeatLimit := f.repeatLimit, stallLimit := f.stallLimit,
        queueQuota := f.queueQuota, mappedOnly := f.mappedOnly, patchPermit := f.patchPermit,
        attnHalt := f.attnHalt, attnAttach := f.attnAttach, attnPause := f.attnPause }
    match f.cls with
    | .urgent => some (stored .urgent)
    | .normal => some (stored .normal)
    | .undefinedCode => none

/-- The fields that a read of CONFIG shows. -/
def PortConfig.toFields (c : PortConfig) : ConfigFields :=
  { cls := match c.cls with | .urgent => .urgent | .normal => .normal
    burstQuota := c.burstQuota, repeatLimit := c.repeatLimit, stallLimit := c.stallLimit,
    queueQuota := c.queueQuota, mappedOnly := c.mappedOnly, patchPermit := c.patchPermit,
    attnHalt := c.attnHalt, attnAttach := c.attnAttach, attnPause := c.attnPause }

/-! ### The COMMAND port field -/

/-- The port that a port field of 0 to 7 names; 8 or more names none (R24). -/
def portOfField (f : BitVec 4) : Option PortId :=
  if h : f.toNat < 8 then some ⟨f.toNat, h⟩ else none

end Sys2Proof.Machine
end

