-- ==== Sys2Proof/Machine/Flags.lean ====
section
/-! DEFINITION. Every flag computation: the class of a status, what of its context a port reads to decide, the
message effects of a record end, the report of a record end, the repair of a broken message on the lines. -/

namespace Sys2Proof.Machine

/-! ### Status classes (Table 3-1) -/

/-- Error statuses halt the port and always need a report (R49). -/
def Status.isError : Status → Bool
  | .underrun | .overrun | .repeatLimit | .periphFault | .stalled | .detached | .mapFault | .busError
  | .patchRejected => true
  | .done | .short | .skipped | .aborted | .marked | .patched => false

/-- The ends of Table 3-3: those that cut a data record somewhere in its message (R53, R55). -/
def Status.cutsMessage : Status → Bool
  | .repeatLimit | .periphFault | .stalled | .detached | .mapFault | .busError | .aborted => true
  | .done | .short | .skipped | .marked | .patched | .underrun | .overrun | .patchRejected => false

/-! ### What a port reads of itself -/

/-- The current record: the queue head in stage CURRENT (R14, R21). -/
def Port.current (P : Port) : Option Record :=
  match P.queue with
  | ⟨r, .current⟩ :: _ => some r
  | _ => none

/-- The current record, if it is a data record. -/
def Port.currentData (P : Port) : Option Work :=
  match P.current with
  | some r => if r.work.isData then some r.work else none
  | none => none

/-- The block address of the current record, if it is a PATCH record. -/
def Port.currentPatch (P : Port) : Option Word :=
  match P.current with
  | some ⟨.patch a, _, _, _⟩ => some a
  | _ => none

/-- A burst is open while the phase is TRANSFERRING or CONFIRMING (R20). -/
def Port.burstOpen (P : Port) : Bool := P.phase == .transferring || P.phase == .confirming

/-- Whether a record at the head may become current (R22): a control record always, a data record while ATTACHED is
set and RESYNC clear. -/
def Port.mayBecomeCurrent (P : Port) (r : Record) : Bool := !r.work.isData || (P.attached && !P.resync)

/-- Resync discard runs (R82). -/
def Port.discards (P : Port) : Bool :=
  P.resync && P.attached && (P.state == .idle || P.state == .running || P.state == .halted) && P.currentData.isNone

/-- The conditions of R85 but the grant. -/
def Port.readyForBurst (P : Port) : Bool :=
  P.state == .running && !P.pausePending && !P.abortPending && !P.skip && !P.resync && P.phase == .waiting &&
    P.rdyLine

/-- The port's request at the arbiter stands (R86, R101). -/
def Port.requests (P : Port) : Bool :=
  P.readyForBurst && (match P.currentData with | some w => w.isMove | none => false)

/-- The stall timer counts (R80). -/
def Port.stallCounts (P : Port) : Bool :=
  decide (1 ≤ P.config.stallLimit.toNat) && P.state == .running && P.currentData.isSome &&
    ((P.phase == .waiting && !P.rdyLine) || P.phase == .confirming)

/-- The last word sent in the outbound burst carried END: the word at LENGTH − 1 of a record with CONTINUE clear
(R70). -/
def Port.burstCarriedEnd (P : Port) (w : Work) : Bool := P.position == w.length && !w.cont && decide (0 < P.exchanged)

/-- A message is open on the queue side: MSG-OPEN or SKIP (R9, R33). -/
def Port.messageOpen (P : Port) : Bool := P.msgOpen || P.skip

/-- An outbound message is broken on the lines: WORDS PASSED set and END PASSED clear (R33, R53). -/
def Port.outboundBroken (P : Port) : Bool := P.msgDir == .outbound && P.wordsPassed && !P.endPassed

/-! ### Message flags -/

/-- MSG-OPEN, SKIP and the progress marks are cleared (R19). -/
def Port.closeMessage (P : Port) : Port :=
  { P with msgOpen := false, skip := false, wordsPassed := false, endPassed := false }

/-- SKIP is set in place of MSG-OPEN, MSG-DIR kept (R19). -/
def Port.setSkip (P : Port) : Port := { P with skip := true, msgOpen := false }

/-- CAN is driven: asserted, its count of 1 µs steps restarted (R79). -/
def Port.driveCan (P : Port) : Port := { P with can := some 0 }

/-- The message repaired on the lines from what the progress marks show (R53): RESYNC for an inbound message whose END
has not passed, CAN for an outbound one of which words but no END have passed. A DETACHED end sets no RESYNC (R54);
a PERIPH FAULT end does, whatever peripheral is attached by then (DESIGN CHOICE, log 36). -/
def Port.repairLines (st : Status) (P : Port) : Port :=
  match P.msgDir with
  | .inbound => if !P.endPassed && st ≠ .detached then { P with resync := true } else P
  | .outbound => if P.wordsPassed && !P.endPassed then P.driveCan else P

/-- Whether a record end sets SKIP in place of MSG-OPEN: SHORT and ABORTED with CONTINUE set, and an inbound DONE
with CONTINUE set whose last word carried END (Table 3-2, R50, R51, R55). -/
def Port.endSetsSkip (P : Port) (w : Work) (st : Status) : Bool :=
  w.cont &&
    (st == .short || st == .aborted || (st == .done && w.dir == some .inbound && P.endTaken))

/-- The message effects of the end of a data record (R59 step 2): repair or OVERRUN's RESYNC, then SKIP, then the
closing of the message by a record with CONTINUE clear (R19, R50 to R55, R58). -/
def Port.messageEffects (w : Work) (st : Status) (P : Port) : Port :=
  let P1 := if st.cutsMessage then P.repairLines st else if st = .overrun then { P with resync := true } else P
  let P2 := if P.endSetsSkip w st then P1.setSkip else P1
  if w.cont then P2 else P2.closeMessage

/-- How an inbound record ends at a counted word that reached LENGTH or carried END (Table 3-2, R50, R51). -/
def Port.inboundEnd (P : Port) (w : Work) : Status :=
  if w.length ≤ P.moved then
    if P.endTaken || w.cont then .done else .overrun
  else if w.shortOk then .short else .underrun

/-! ### Reports -/

/-- Whether a record end needs a report (R59 step 3). -/
def Record.needsReport (r : Record) (st : Status) : Bool := r.reportAlways || st.isError || r.work == .mark

/-- The report of a record end (Table 3-4). -/
def Port.recordReport (P : Port) (p : PortId) (r : Record) (st : Status) (d : Detail) : Report :=
  .record p st r.tag (if r.work.isData then P.moved else 0)
    (match r.work.dir with
      | some .inbound => P.endTaken
      | some .outbound => st == .done && !r.work.cont
      | none => false)
    (if r.work.dir = some .outbound then P.repeats else 0) r.urgent d

/-- A posting that raises REPORT DUE whatever the counts: an URGENT record or an error status (R149). -/
def Report.raisesAtOnce : Report → Bool
  | .record _ st _ _ _ _ urgent _ => urgent || st.isError
  | .flushed _ _ => false

/-- The status of a held report, from which the retirement completes at admission (R62). -/
def Report.status : Report → Status
  | .record _ st _ _ _ _ _ _ => st
  | .flushed _ _ => .done

end Sys2Proof.Machine
end

