-- ==== Sys2Proof/Machine/Ops.lean ====
section
/-! DEFINITION. The operations that every command is made of: port access, the window map's table, latches and the
fence, the report queue, record ends and retirement, claims, the head becoming current, bursts and the data path,
RESULT, and the gates that the window puts before a command. -/

namespace Sys2Proof.Machine

/-! ### Ports and sets of ports -/

/-- The eight ports in ascending order. -/
def allPorts : List PortId := [0, 1, 2, 3, 4, 5, 6, 7]

/-- The context of a port. -/
def State.port (s : State) (p : PortId) : Port := s.ports[p.val]

/-- The state with the context of one port replaced. -/
def State.setPort (s : State) (p : PortId) (P : Port) : State := { s with ports := s.ports.set p.val P }

/-- The state with the context of one port changed. -/
def State.modPort (s : State) (p : PortId) (f : Port → Port) : State := s.setPort p (f (s.port p))

/-- The state with every port's context changed. -/
def State.mapPorts (s : State) (f : PortId → Port → Port) : State :=
  { s with ports := Vector.ofFn fun p => f p (s.port p) }

/-- Whether a port is in a set. -/
def PortSet.mem (S : PortSet) (p : PortId) : Bool := S[p.val]

/-- A set with a port added. -/
def PortSet.insert (S : PortSet) (p : PortId) : PortSet := S.set p.val true

/-- A set with a port taken out. -/
def PortSet.erase (S : PortSet) (p : PortId) : PortSet := S.set p.val false

/-- Whether a set holds no port. -/
def PortSet.isEmpty (S : PortSet) : Bool := allPorts.all fun p => !S.mem p

/-- The number of ports in a set. -/
def PortSet.count (S : PortSet) : Nat := (allPorts.filter S.mem).length

/-- The lowest-numbered port of a set. -/
def PortSet.lowest (S : PortSet) : Option PortId := allPorts.find? S.mem

/-- Occupied slots of the pool: the records held in the eight queues (R14). -/
def State.occupied (s : State) : Nat := (allPorts.map fun p => (s.port p).queue.length).sum

/-! ### The window map's table (R111) -/

/-- An entry as the initialisation writes it (R112). -/
def MapEntry.initial : MapEntry := ⟨⟨0, false, false, false⟩, false, .none⟩

/-- The entry of an index; an unlisted one is as initialised. -/
def entryAt : List (Nat × MapEntry) → Nat → MapEntry
  | [], _ => .initial
  | (k, e) :: rest, i => if k = i then e else entryAt rest i

/-- The table with one entry written, in canonical form. -/
def putEntry : List (Nat × MapEntry) → Nat → MapEntry → List (Nat × MapEntry)
  | [], i, e => if e = .initial then [] else [(i, e)]
  | (k, x) :: rest, i, e =>
    if i < k then (if e = .initial then (k, x) :: rest else (i, e) :: (k, x) :: rest)
    else if i = k then (if e = .initial then rest else (i, e) :: rest)
    else (k, x) :: putEntry rest i e

/-- The canonical form of the table: keys strictly rising and below 1024, no entry as initialised. -/
abbrev MapUnit.wf (m : MapUnit) : Prop :=
  m.entries.Pairwise (fun a b => a.1 < b.1) ∧ ∀ x ∈ m.entries, x.1 < 1024 ∧ x.2 ≠ .initial

/-- One entry of the map. -/
def MapUnit.entry (m : MapUnit) (i : Nat) : MapEntry := entryAt m.entries i

/-- The map with one entry replaced whole. -/
def MapUnit.setEntry (m : MapUnit) (i : Nat) (e : MapEntry) : MapUnit :=
  { m with entries := putEntry m.entries i e }

/-- An entry written with a fresh check code: integrity GOOD, disturbance NONE (R111, R121, R136). -/
def MapUnit.writeEntry (m : MapUnit) (i : Nat) (c : MapContents) : MapUnit := m.setEntry i ⟨c, false, .none⟩

/-- The entry as a detection leaves it (R124). -/
def MapEntry.detected (e : MapEntry) : MapEntry :=
  if e.poisoned then e
  else
    match e.disturbance with
    | .none => e
    | .oneBit => { e with disturbance := .none }
    | .twoBits => { e with poisoned := true, disturbance := .none }

/-- A read of an entry is a detection: a correction sets CORRECTED and counts up to 255, a poisoning sets POISONED
(R124). -/
def MapUnit.detect (m : MapUnit) (i : Nat) : MapUnit :=
  let e := m.entry i
  if e.poisoned then m
  else
    match e.disturbance with
    | .none => m
    | .oneBit =>
      { m.setEntry i e.detected with correctedFlag := true, corrections := min 255 (m.corrections + 1) }
    | .twoBits => { m.setEntry i e.detected with poisonedFlag := true }

/-! ### Latches and the fence set (R118 to R120, R139) -/

/-- A port leaves the fence set; the last one to leave completes the fence (R139). -/
def MapUnit.leaveFence (m : MapUnit) (p : PortId) : MapUnit :=
  if m.fenceSet.mem p then
    let rest := m.fenceSet.erase p
    if m.fencePending && rest.isEmpty then
      { m with fenceSet := rest, fencePending := false, fenceEnd := true }
    else { m with fenceSet := rest }
  else m

/-- The port's latch set to a translation or to none. -/
def Port.setLatch (l : Option Latch) (P : Port) : Port := { P with latch := l }

/-- The port's latch is invalidated, and the fence set is told (R120). -/
def State.dropLatch (s : State) (p : PortId) : State :=
  { s.modPort p (Port.setLatch none) with map := s.map.leaveFence p }

/-- The port's latch is loaded; replacing a valid latch is told to the fence set (R116, R120). -/
def State.loadLatch (s : State) (p : PortId) (l : Latch) : State :=
  { s.modPort p (Port.setLatch (some l)) with
    map := if (s.port p).latch.isSome then s.map.leaveFence p else s.map }

/-! ### The report queue (chapter 9) -/

/-- No free entry (R142). -/
def ReportQueue.full (q : ReportQueue) : Bool := decide (32 ≤ q.entries.length)

/-- The unannounced count (R149). -/
def ReportQueue.unannounced (q : ReportQueue) : Nat := (q.entries.filter fun e => !e.announced).length

/-- A raising: REPORT DUE set, every entry announced, the holdoff timer stopped (R149). -/
def ReportQueue.raise (q : ReportQueue) : ReportQueue :=
  { q with entries := q.entries.map fun e => { e with announced := true }, reportDue := true, holdoffTimer := none }

/-- The queue with a report appended at its tail, unannounced. -/
def ReportQueue.append (q : ReportQueue) (r : Report) : ReportQueue :=
  { q with entries := q.entries ++ [⟨r, false⟩] }

/-- A posting (R142), with the announcement rules R149 and R150 applied to it. -/
def ReportQueue.post (q : ReportQueue) (r : Report) : ReportQueue :=
  if q.threshold ≤ (q.append r).unannounced ∨ r.raisesAtOnce = true ∨ q.holdoff = 0 then (q.append r).raise
  else if q.unannounced = 0 then { q.append r with holdoffTimer := some 0 }
  else q.append r

/-- The head entry removed (R145 step 1): taking the last unannounced entry stops the holdoff timer. -/
def ReportQueue.removeHead (q : ReportQueue) : ReportQueue :=
  match q.entries with
  | [] => q
  | e :: rest =>
    let q1 := { q with entries := rest }
    if !e.announced && q1.unannounced == 0 then { q1 with holdoffTimer := none } else q1

/-! ### The data path and the arbiter (R97, R108) -/

/-- The holder gives the data path back: HOLDER is NONE, no access is under way, and RESET BUSY clears (R108, R167). -/
def State.release (s : State) : State :=
  { s with
    arbiter := { s.arbiter with holder := .none }
    access := none
    win := { s.win with resetBusy := false } }

/-- A port releases the data path if it holds it; a port that holds none has nothing to release (R97). -/
def State.releaseBy (s : State) (p : PortId) : State := if s.arbiter.holder = .port p then s.release else s

/-- A host access is under way for a port (R84). -/
def State.accessFor (s : State) (p : PortId) : Bool := s.arbiter.holder == .port p && s.access.isSome

/-! ### Record ends and retirement (R59 to R62) -/

/-- Step 1 of a record end, less the latch (R59): phase NONE, stall timer stopped, what belonged to the burst gone,
and a pending abort dropped (R40). -/
def Port.endBurst (P : Port) : Port :=
  { P with phase := .none, inHand := none, lookupRequest := false, cut := none, stallTimer := none,
           abortPending := false }

/-- Step 2 of a record end: the message effects of a data record; a control record has none (R57, R59). -/
def Port.endEffects (r : Record) (st : Status) (P : Port) : Port :=
  if r.work.isData then P.messageEffects r.work st else P

/-- Completion of a retirement at the port (R61): the record leaves the head of the queue and the port chooses its next
state, IDLE standing for "the new head becomes current at once if it may" (see `State.examine`). -/
def Port.completeRetirement (st : Status) (P : Port) : Port :=
  let P1 := { P with queue := P.queue.tail, heldReport := none }
  if st.isError then { P1 with state := .halted, haltEvent := true, pausePending := false }
  else if P.pausePending then { P1 with state := .paused, pausePending := false, pauseReached := true }
  else if P.state = .paused then P1
  else { P1 with state := .idle }

/-- A retirement that blocks, at the port (R62): the slot is ENDED and the report held. A held record that a WITHDRAW
ended blocks with PAUSE-PENDING set (R36). -/
def Port.block (st : Status) (rep : Report) (P : Port) : Port :=
  { P with
    queue := match P.queue with
      | [] => []
      | slot :: rest => { slot with stage := .ended } :: rest
    state := .blocked
    heldReport := some rep
    pausePending := P.pausePending || (P.state == .paused && st == .aborted) }

/-- A retirement (R59 steps 3 and 4, R61, R62): completed at once, completed after its report is posted, or blocked. -/
def State.retire (s : State) (p : PortId) (st : Status) (needed : Bool) (rep : Report) : State :=
  if !needed then s.modPort p (Port.completeRetirement st)
  else if s.reports.full then
    { s.modPort p (Port.block st rep) with reports := { s.reports with blocked := s.reports.blocked ++ [p] } }
  else { s.modPort p (Port.completeRetirement st) with reports := s.reports.post rep }

/-- The end of the current record of a port with a status (R59). The report is built from the record as it stands at
its end. What the head does next is `State.examine`. -/
def State.recordEnd (s : State) (p : PortId) (st : Status) (d : Detail) : State :=
  match (s.port p).current with
  | none => s
  | some r =>
    let s1 := (s.dropLatch p).modPort p fun P => P.endBurst.endEffects r st
    s1.retire p st (r.needsReport st) ((s1.port p).recordReport p r st d)

/-! ### Patch claims (R129 to R132) -/

/-- The patch engine takes a claim: it copies the format port's window, empties its staging and raises its fetch
request by standing in phase REQUESTING (R129). -/
def State.takeClaim (s : State) (origin : Origin) (address : Word) (formatPort : PortId) : State :=
  let w := (s.port formatPort).window
  { s with
    map := { s.map with
      engine := some
        { origin := origin, owned := true, address := address, formatPort := formatPort, base := w.base,
          span := w.span, fetching := false, wordsRead := 0, count := 0, relative := false, index := none,
          staging := [] } } }

/-- A port claim is raised: taken at once by a FREE engine, else the port joins the waiting set (R131). -/
def State.raiseClaim (s : State) (p : PortId) (address : Word) : State :=
  match s.map.engine with
  | none => s.takeClaim (.port p) address p
  | some _ => { s with map := { s.map with waiting := s.map.waiting.insert p } }

/-- A waiting claim is withdrawn (R131). -/
def State.withdrawClaim (s : State) (p : PortId) : State :=
  { s with map := { s.map with waiting := s.map.waiting.erase p } }

/-- The FREE engine takes the claim of the lowest-numbered waiting port (R132). -/
def State.takeNextClaim (s : State) : State :=
  match s.map.waiting.lowest with
  | none => s
  | some q =>
    match (s.port q).currentPatch with
    | none => s.withdrawClaim q
    | some a => (s.withdrawClaim q).takeClaim (.port q) a q

/-- The patch of the port's current PATCH record is in flight (R29, R36). -/
def State.patchInFlight (s : State) (p : PortId) : Bool :=
  match s.map.engine with
  | some f => f.origin == .port p && f.owned && (s.port p).currentPatch.isSome
  | none => false

/-! ### The head becomes current (R22, R23) -/

/-- The head taken up as the current record (R20, R22, R23): the port is RUNNING and the progress items are 0. A data
record with SKIP clear begins or continues the message (R19), its phase is WAITING, DIR shows its direction (R66) and
its stall timer is at 0 (R80). -/
def Port.takeUp (r : Record) (rest : List Slot) (P : Port) : Port :=
  let P1 :=
    { P with
      queue := ⟨r, .current⟩ :: rest
      state := .running
      moved := 0, position := 0, burstStart := 0, repeats := 0, burstLength := 0, exchanged := 0
      endTaken := false, inHand := none, cut := none, lookupRequest := false
      phase := .none, stallTimer := none }
  match r.work.dir with
  | none => P1
  | some d =>
    if P.skip then P1
    else
      let P2 :=
        if P.msgOpen then P1
        else { P1 with msgOpen := true, msgDir := d, wordsPassed := false, endPassed := false }
      { P2 with phase := .waiting, dirLine := d, stallTimer := some 0 }

/-- The status with which a record retires as it becomes current: a MARK, or a data record while SKIP is set (R23). -/
def Port.instantStatus (r : Record) (P : Port) : Option Status :=
  if r.work = .mark then some .marked else if r.work.isData && P.skip then some .skipped else none

/-- The queue head of an IDLE port becomes current while it may, a record that retires at once making room for the next
(R22, R23, R61). The fuel bounds the records retired so. -/
def State.examineFuel : Nat → PortId → State → State
  | 0, _, s => s
  | n + 1, p, s =>
    if (s.port p).state = .idle then
      match (s.port p).queue with
      | [] => s
      | slot :: rest =>
        if (s.port p).mayBecomeCurrent slot.record then
          let s1 := s.setPort p ((s.port p).takeUp slot.record rest)
          match (s.port p).instantStatus slot.record with
          | some st => State.examineFuel n p (s1.recordEnd p st .absent)
          | none =>
            match slot.record.work with
            | .patch a => s1.raiseClaim p a
            | .move _ _ _ _ _ _ | .fill _ _ _ | .drain _ _ _ | .mark => s1
        else s
    else s

/-- The head of a port is examined (R22): nothing happens unless the port is IDLE. -/
def State.examine (s : State) (p : PortId) : State := State.examineFuel ((s.port p).queue.length + 1) p s

/-! ### Bursts (chapter 5) -/

/-- A burst starts (R85): phase TRANSFERRING, the start position taken, the length fixed, no word exchanged, and no CNF
behind it. -/
def Port.startBurst (w : Work) (P : Port) : Port :=
  { P with phase := .transferring, burstStart := P.position,
           burstLength := w.burstLength P.config.burstQuota P.position, exchanged := 0
           answered := false }

/-- What begins at a port as soon as its conditions hold: resync discard, with DIR INBOUND (R66, R82), and the burst of
a FILL or a DRAIN, which needs no grant (R85). That burst starts in the step of the event that lets it begin, a burst's end
and a record's retirement among them, so a command that comes next meets it open (DESIGN CHOICE, log 33). -/
def Port.settle (P : Port) : Port :=
  if P.discards then { P with dirLine := .inbound }
  else
    match P.currentData with
    | some w => if P.readyForBurst && !w.isMove then P.startBurst w else P
    | none => P

/-- The end of every event at a port: the head is examined, and what can begin begins, in this same step (DESIGN CHOICE where
R26 has a command that comes next find no burst open: log 33). -/
def State.serve (s : State) (p : PortId) : State := (s.examine p).modPort p Port.settle

/-- The head examined after an event that can change an IDLE port's head (R22). -/
def State.serveIdle (s : State) (p : PortId) : State := if (s.port p).state = .idle then s.serve p else s

/-- A pending pause applied to a record that did not retire (R40 step 3). -/
def Port.pauseHolding (P : Port) : Port :=
  { P with state := .paused, pausePending := false, pauseReached := true }

/-- The burst is over and has not ended its record: WAITING, then the pending actions in order (R40, R96). -/
def State.burstOver (s : State) (p : PortId) : State :=
  let s1 := s.modPort p fun P => { P with phase := .waiting, inHand := none, lookupRequest := false, cut := none }
  if (s.port p).abortPending then s1.recordEnd p .aborted .absent
  else if (s.port p).pausePending then s1.modPort p Port.pauseHolding
  else s1

/-- The transfer phase of an outbound burst that sent a word ends: the data path is released and the port waits for its
confirmation (R75, R96). -/
def State.confirm (s : State) (p : PortId) : State :=
  (s.releaseBy p).modPort p fun P => { P with phase := .confirming, inHand := none }

/-- The transfer phase of a burst ends without its record ending: an outbound burst that sent a word goes to CONFIRMING,
every other burst is over (R75, R94, R96). -/
def State.transferEnd (s : State) (p : PortId) : State :=
  match (s.port p).currentData with
  | none => s
  | some w =>
    if w.dir = some .outbound ∧ 0 < (s.port p).exchanged then s.confirm p else (s.releaseBy p).burstOver p

/-- A record ends at its own burst: the data path is released before the retirement (R97). -/
def State.endHere (s : State) (p : PortId) (st : Status) (d : Detail) : State := (s.releaseBy p).recordEnd p st d

/-- The port wants a word of the lines: with RDY absent the transfer phase ends as a yield (R87, R94). -/
def State.wantWord (s : State) (p : PortId) : State := if (s.port p).rdyLine then s else s.transferEnd p

/-- The data path starts the read of the word at the position (R93). -/
def State.startRead (s : State) (p : PortId) (w : Work) : State :=
  { s with access := some (.read (w.physicalAddress (s.port p).latch (s.port p).position)) }

/-- What follows once the translation of a MOVE burst is settled: an inbound burst wants its first word, an outbound one
reads it (R92, R93). -/
def State.translated (s : State) (p : PortId) (w : Work) : State :=
  if w.dir = some .outbound then s.startRead p w else s.wantWord p

/-- After an inbound word is delivered and counted (R92, R94): the record ends at an END or at LENGTH, the burst is over
at its length, or the port wants the next word. -/
def State.afterDelivery (s : State) (p : PortId) (w : Work) : State :=
  let P := s.port p
  if P.endTaken ∨ w.length ≤ P.moved then s.endHere p (P.inboundEnd w) .absent
  else if P.burstLength ≤ P.exchanged then s.transferEnd p
  else s.wantWord p

/-- An inbound word is counted (R92, R94, R99). -/
def Port.countInbound (P : Port) : Port :=
  { P with moved := P.moved + 1, position := P.position + 1, exchanged := P.exchanged + 1 }

/-- The stall timer of a record restarts (R80). -/
def Port.restartStall (P : Port) : Port := { P with stallTimer := some 0 }

/-- The port wants an inbound word of a burst (R67): nothing of the burst is under way. -/
def State.wantsInbound (s : State) (p : PortId) : Bool :=
  let P := s.port p
  P.state == .running && P.phase == .transferring && !P.lookupRequest && P.cut.isNone && !s.accessFor p &&
    (match P.currentData with | some w => w.dir == some .inbound | none => false)

/-- The outbound word in hand (R69): PATTERN for a FILL, the word read for a MOVE. -/
def State.wordInHand (s : State) (p : PortId) : Option Word :=
  let P := s.port p
  if P.state == .running && P.phase == .transferring && !P.lookupRequest && P.cut.isNone && !s.accessFor p then
    match P.currentData with
    | some (.fill _ pattern _) => some pattern
    | some (.move .outbound _ _ _ _ _) => P.inHand
    | some (.move .inbound _ _ _ _ _) | some (.drain _ _ _) | some .mark | some (.patch _) | none => none
  else none

/-- An RPT carried out as a rewind, or the end REPEAT LIMIT (R52, R76, R77). END PASSED is cleared first if the burst's
last word carried END (R48). -/
def State.repeatBurst (s : State) (p : PortId) (w : Work) : State :=
  let P := s.port p
  let refused := fun (Q : Port) => if Q.burstCarriedEnd w then { Q with endPassed := false } else Q
  if P.repeats < P.config.repeatLimit.toNat then
    ((s.releaseBy p).modPort p fun Q =>
      { (refused Q).restartStall with repeats := Q.repeats + 1, position := Q.burstStart }).burstOver p
  else (s.modPort p refused).endHere p .repeatLimit .absent

/-- The status that a cut fixes for a record with this repeat limit left or not: DETACHED, PERIPH FAULT, or REPEAT LIMIT
for an RPT at the limit; an RPT below the limit ends no record (R73, R77). -/
def Port.cutFixesEnd (P : Port) : Bool :=
  match P.cut with
  | some .detached | some .periphFault => true
  | some .repeatRequest => decide (P.config.repeatLimit.toNat ≤ P.repeats)
  | none => false

/-- A detach or an FLT reaches the current data record (R72 to R74): a burst with a host access under way is cut and
ends with it; in every other phase the record ends at once. -/
def State.cutRecord (s : State) (p : PortId) (c : Cut) (st : Status) : State :=
  let P := s.port p
  if P.currentData.isNone then s
  else if P.phase = .transferring ∧ s.accessFor p then
    if P.cutFixesEnd then s else s.modPort p fun Q => { Q with cut := some c }
  else (s.endHere p st .absent).serve p

/-! ### RESULT and the gates of the window (R24, R166, R168) -/

/-- RESULT written with a refusal. -/
def State.refuse (s : State) (op : BitVec 4) (why : Reason) (value : Nat) : State :=
  { s with win := { s.win with result := ⟨op, why, value⟩ } }

/-- RESULT written with an acceptance. -/
def State.accept (s : State) (op : BitVec 4) (value : Nat) : State :=
  { s with win := { s.win with result := ⟨op, .accepted, value⟩ } }

/-- Codes of the port states in RESULT and PORTp STATUS (Table 11-4). -/
def PortState.code : PortState → Nat
  | .disabled => 0
  | .idle => 1
  | .running => 2
  | .paused => 3
  | .halted => 4
  | .blocked => 5
  | .resetting => 6

/-- The part while RESET is not held; while it is held, nothing is taken (R168, log 10). -/
def State.unlessReset (s : State) (f : State → State) : State := if s.win.resetHeld then s else f s

/-- A COMMAND write of a defined opcode other than SOFT RESET: refused BUSY while INIT BUSY or RESET BUSY is set
(R166). A POP after a SOFT RESET that found the data path free meets RESET BUSY clear: it goes to its owner and finds the
queue empty (R145, R166), where R152 says without a condition that the POP is refused BUSY (DESIGN CHOICE, log 31). -/
def State.command (s : State) (op : BitVec 4) (f : State → State) : State :=
  s.unlessReset fun s => if s.win.initBusy || s.win.resetBusy then s.refuse op .busy 0 else f s

/-- A port command: refused BAD PORT with value 0 for a port field of 8 or more (R24). -/
def State.portCommand (s : State) (op port : BitVec 4) (f : PortId → State → State) : State :=
  s.command op fun s =>
    match portOfField port with
    | none => s.refuse op .badPort 0
    | some p => f p s

/-- A port command refused by its port: the value is the port's state (R25). -/
def State.refuseAt (s : State) (op : BitVec 4) (why : Reason) (p : PortId) : State :=
  s.refuse op why (s.port p).state.code

/-- A write is discarded: WRITE IGNORED is set (R165). -/
def State.ignoreWrite (s : State) : State := { s with win := { s.win with writeIgnored := true } }

/-- A read returns a word on the host bus (MODEL, log 1). -/
def State.answerRead (s : State) (w : Word) : State := { s with win := { s.win with hostRead := w } }

/-- A read of the window by a command: 0 while RESET is held or for a read narrower than 32 bits, with no other effect
(R162, R168). -/
def State.windowRead (s : State) (narrow : Bool) (f : State → State) : State :=
  if s.win.resetHeld || narrow then s.answerRead 0 else f s

end Sys2Proof.Machine
end

