-- ==== Sys2Proof/Machine/AttentionCommands.lean ====
section
/-! DEFINITION. The attention unit: pending and eligible sources, INT, the acknowledge reads, EOS and ASTAT
(chapter 10). -/

namespace Sys2Proof.Machine

/-- A port's source (Table 10-1): one of its status flags set with its enable in CONFIG set. -/
def Port.attentionPending (P : Port) : Bool :=
  (P.haltEvent && P.config.attnHalt) || (P.attachChange && P.config.attnAttach) ||
    (P.pauseReached && P.config.attnPause)

/-- The map source (Table 10-1): a map flag set with its enable in MAPEN set. -/
def MapUnit.attentionPending (m : MapUnit) : Bool :=
  (m.patchEnd && m.mapEn.getLsbD 0) || (m.fenceEnd && m.mapEn.getLsbD 1) ||
    (m.correctedFlag && m.mapEn.getLsbD 2) || (m.poisonedFlag && m.mapEn.getLsbD 3)

/-- Whether a source is pending (R153): codes 0 to 7 the ports, 8 REPORT, 9 MAP; the other codes are no source. INIT
BUSY does not hold a source back: R161 says that the sources stay clear until the map initialisation ends, while by R42, R71,
R153 and R168 an attach or a detach taken during it, with ATTN ATTACH written, makes its port's source pending (DESIGN
CHOICE, log 34). -/
def State.sourcePending (s : State) (code : Nat) : Bool :=
  if h : code < 8 then (s.port ⟨code, h⟩).attentionPending
  else if code = 8 then s.reports.reportDue
  else if code = 9 then s.map.attentionPending
  else false

/-- LEVEL of a source, 0 to 3 (R154, Table 11-10). -/
def Attention.level (a : Attention) (code : Nat) : Nat := (a.alevel.toNat >>> (2 * code)) % 4

/-- A source is eligible (R156): pending, its LEVEL not masked and numerically below CSL. -/
def State.eligible (s : State) (code : Nat) : Bool :=
  s.sourcePending code && !s.attn.amask.getLsbD (s.attn.level code) && decide (s.attn.level code < s.attn.csl)

/-- The source codes in ascending order (Table 10-1). -/
def sourceCodes : List Nat := [0, 1, 2, 3, 4, 5, 6, 7, 8, 9]

/-- The chosen source (R157): the lowest LEVEL, then the lowest code, among the eligible sources. -/
def State.chosenSource (s : State) : Option Nat :=
  [0, 1, 2, 3].findSome? fun l => sourceCodes.find? fun c => s.eligible c && s.attn.level c == l

/-- INT (R156). The spec gives INT at the release of RESET and no level for it while RESET is held: the model keeps it
following the old flags and enables there (DESIGN CHOICE, log 32). -/
def State.int (s : State) : Bool := s.win.attnEnable && sourceCodes.any s.eligible

/-- The word of an acknowledge read: code 3:0, level 9:8; code 15 and level 0 when none is chosen (R157). -/
def State.acknowledgeWord (s : State) : Word :=
  match s.chosenSource with
  | some c => BitVec.ofNat 32 (c + 256 * s.attn.level c)
  | none => 15

/-- ACKPEEK (R157): changes no state of the attention unit and no flag. -/
def execAckpeek (narrow : Bool) (s : State) : Host.Outcome State Fault Refusal :=
  .next <| s.windowRead narrow fun s => s.answerRead s.acknowledgeWord

/-- An ACKNEST read taken whole (R158): the chosen level is entered and CSL pushed; with the stack full it answers 15 and
sets OVERFLOW. -/
def State.ackNest (s : State) : State :=
  if 4 ≤ s.attn.stack.length then
    { s with attn := { s.attn with overflow := true } }.answerRead 15
  else
    match s.chosenSource with
    | none => s.answerRead 15
    | some c =>
      { s with attn := { s.attn with stack := s.attn.csl :: s.attn.stack, csl := s.attn.level c } }.answerRead
        s.acknowledgeWord

/-- ACKNEST (R158). -/
def execAcknest (narrow : Bool) (s : State) : Host.Outcome State Fault Refusal :=
  .next <| s.windowRead narrow State.ackNest

/-- The end of the current service (R159). -/
def Attention.endService (a : Attention) : Attention :=
  match a.stack with
  | [] => { a with csl := 4, underflow := true }
  | top :: rest => { a with csl := top, stack := rest }

/-- EOS (R159): the value written is ignored. -/
def execEos (_v : Word) (s : State) : Host.Outcome State Fault Refusal :=
  .next <| s.unlessReset fun s => { s with attn := s.attn.endService }

/-- ASTAT_CLEAR (R160): bits 24 and 25 clear OVERFLOW and UNDERFLOW. -/
def execAstatClear (v : Word) (s : State) : Host.Outcome State Fault Refusal :=
  .next <| s.unlessReset fun s =>
    { s with attn := { s.attn with
        overflow := s.attn.overflow && !flag v 24
        underflow := s.attn.underflow && !flag v 25 } }

end Sys2Proof.Machine
end

