-- ==== Sys2Proof/Machine/DataPath.lean ====
section
/-! DEFINITION. The arbiter's grant, the ends of host accesses and the release of a RESETTING port (chapters 5, 6 and
11). -/

namespace Sys2Proof.Machine

/-! ### The grant (R104 to R107) -/

/-- The patch fetch request stands: a patch in flight in phase REQUESTING (R102, R129). -/
def State.fetchRequests (s : State) : Bool :=
  match s.map.engine with
  | some f => !f.fetching
  | none => false

/-- A port's request stands in a class (R101). -/
def State.requestsIn (s : State) (c : PortClass) (p : PortId) : Bool :=
  (s.port p).requests && (s.port p).config.cls == c

/-- The ports from the one after a pointer upwards, wrapping from 7 to 0 and ending with the pointer (R106). -/
def rotation (pointer : PortId) : List PortId :=
  [1, 2, 3, 4, 5, 6, 7, 8].map fun k : Nat => (⟨(pointer.val + k) % 8, Nat.mod_lt _ (by decide)⟩ : PortId)

/-- The first port with a standing request in a class, in the class's rotation (R105 step 4, R106). -/
def State.firstIn (s : State) (c : PortClass) : Option PortId :=
  (rotation (match c with | .urgent => s.arbiter.urgentPointer | .normal => s.arbiter.normalPointer)).find?
    (s.requestsIn c)

/-- The class chosen among standing port requests: URGENT, unless none stands there or the guard lets a NORMAL one
through (R105 steps 2 and 3). -/
def State.chosenClass (s : State) : PortClass :=
  if (s.firstIn .urgent).isNone then .normal
  else if s.arbiter.urgentRun = 4 ∧ (s.firstIn .normal).isSome then .normal
  else .urgent

/-- The arbiter after a grant to a port: HOLDER, the class's pointer and the urgent-run counter (R104, R106, R107). -/
def State.grantedArbiter (s : State) (c : PortClass) (p : PortId) : Arbiter :=
  match c with
  | .urgent =>
    { s.arbiter with
      holder := .port p
      urgentPointer := p
      urgentRun := if (s.firstIn .normal).isSome then s.arbiter.urgentRun + 1 else 0 }
  | .normal => { s.arbiter with holder := .port p, normalPointer := p, urgentRun := 0 }

/-- The latch serves the page of the burst start position (R90, R119). -/
def Port.latchServes (P : Port) (w : Work) : Bool :=
  match P.latch with
  | some l => l.page == w.pageAt P.position
  | none => false

/-- The burst of a MOVE at its grant (R85, R90): its translation settled by the latch or not needed, or a lookup
requested. -/
def State.startMove (s : State) (p : PortId) (w : Work) : State :=
  let settled := !w.mapped || (s.port p).latchServes w
  let s1 := s.modPort p (Port.startBurst w)
  if settled then (s1.translated p w).serve p
  else s1.modPort p fun P => { P with lookupRequest := true }

/-- The grant to a port. -/
def State.grantPort (s : State) (c : PortClass) (p : PortId) : State :=
  match (s.port p).currentData with
  | none => s
  | some w => { s with arbiter := s.grantedArbiter c p }.startMove p w

/-- The grant to the patch fetch: it begins to read the block; pointers and counter stay (R104, R107, R133). -/
def State.grantFetch (s : State) : State :=
  match s.map.engine with
  | none => s
  | some f =>
    { s with
      arbiter := { s.arbiter with holder := .patchFetch }
      map := { s.map with engine := some { f with fetching := true } }
      access := some (.read f.address.toNat) }

/-- GRANT (R104, R105): taken while HOLDER is NONE and a request stands. -/
def execGrant (s : State) : Host.Outcome State Fault Refusal :=
  .next <| s.unlessReset fun s =>
    if s.arbiter.holder ≠ .none then s
    else if s.fetchRequests then s.grantFetch
    else
      match s.firstIn s.chosenClass with
      | none => s
      | some p => s.grantPort s.chosenClass p

/-! ### Ends of host accesses (R73, R77, R92, R93, R95) -/

/-- The access of a cut burst ends (R73, R77): an inbound write that ends with data is counted; a read is not sent; an
error response ends nothing more. The data path is released and the record ends or the burst is repeated. A PERIPH FAULT
that is fixed at the cut repairs the message here, setting RESYNC (R53) even where a detach and an attach came in between,
after which R71 discards no word of the new peripheral's (DESIGN CHOICE, log 36). -/
def State.cutAccessEnd (s : State) (p : PortId) (w : Work) (c : Cut) (outcome : AccessOutcome) : State :=
  let counted := w.dir == some .inbound && (match outcome with | .data _ => true | .error => false)
  let s1 := if counted then s.modPort p Port.countInbound else s
  match c with
  | .detached => s1.endHere p .detached .absent
  | .periphFault => s1.endHere p .periphFault .absent
  | .repeatRequest => s1.repeatBurst p w

/-- An access of a MOVE burst ends (R92, R93, R95). -/
def State.moveAccessEnd (s : State) (p : PortId) (w : Work) (outcome : AccessOutcome) : State :=
  let s1 := { s with access := none }
  match (s.port p).cut with
  | some c => s1.cutAccessEnd p w c outcome
  | none =>
    match outcome with
    | .error => s1.endHere p .busError .absent
    | .data v =>
      if w.dir = some .outbound then (s1.modPort p fun P => { P with inHand := some v }).wantWord p
      else (s1.modPort p Port.countInbound).afterDelivery p w

/-- A RESETTING port's release of the data path: the port enters DISABLED (R38, R98). -/
def State.resettingReleased (s : State) (p : PortId) : State :=
  s.release.modPort p fun P => { P with state := .disabled }

/-- HOST_ACCESS_END (R95, R98): taken when a port holds the data path with an access under way. -/
def execHostAccessEnd (outcome : AccessOutcome) (s : State) : Host.Outcome State Fault Refusal :=
  .next <| s.unlessReset fun s =>
    match s.arbiter.holder with
    | .none => s
    | .patchFetch => s
    | .port p =>
      if s.access.isNone then s
      else if (s.port p).state = .resetting then s.resettingReleased p
      else
        match (s.port p).currentData with
        | none => s
        | some w => (s.moveAccessEnd p w outcome).serve p

/-- RESETTING_RELEASE (R98): taken when a RESETTING port holds the data path and no access is under way. -/
def execResettingRelease (p : PortId) (s : State) : Host.Outcome State Fault Refusal :=
  .next <| s.unlessReset fun s =>
    if (s.port p).state = .resetting ∧ s.arbiter.holder = .port p ∧ s.access.isNone then s.resettingReleased p
    else s

end Sys2Proof.Machine
end

