-- ==== Sys2Proof/Machine/LineEvents.lean ====
section
/-! DEFINITION. The line events of a port and the word exchanges (chapters 4 and 5). -/

namespace Sys2Proof.Machine

/-! ### Attach, detach, fault (R71 to R74) -/

/-- A line event of a port that only the level survives while RESET is held (log 10). -/
def State.lineEvent (s : State) (p : PortId) (level : Port → Port) (f : State → State) : State :=
  if s.win.resetHeld then s.modPort p level else f (s.modPort p level)

/-- ATTACH (R71): ATTACHED and ATTACH CHANGE set, RESYNC cleared; in IDLE the head is examined. Taken during INIT BUSY too,
where ATTACH CHANGE can make the port's source pending (DESIGN CHOICE, log 34). One that finds ATT present, which R71 says
cannot arise, is taken in full (DESIGN CHOICE, log 37). -/
def execAttach (p : PortId) (s : State) : Host.Outcome State Fault Refusal :=
  .next <| s.lineEvent p (fun P => { P with attLine := true }) fun s =>
    (s.modPort p fun P => { P with attached := true, attachChange := true, resync := false }).serveIdle p

/-- DETACH (R72): ATTACHED and RESYNC cleared, ATTACH CHANGE set, during INIT BUSY too (log 34); a current data record ends
DETACHED. One that finds ATT absent, which R71 says cannot arise, is taken in full (DESIGN CHOICE, log 37). -/
def execDetach (p : PortId) (s : State) : Host.Outcome State Fault Refusal :=
  .next <| s.lineEvent p (fun P => { P with attLine := false }) fun s =>
    (s.modPort p fun P => { P with attached := false, attachChange := true, resync := false }).cutRecord p
      .detached .detached

/-- An FLT that finds the burst cut by a detach or FLT is ignored (R73); otherwise it ends the current data record
PERIPH FAULT (R74). -/
def execFlt (p : PortId) (s : State) : Host.Outcome State Fault Refusal :=
  .next <| s.unlessReset fun s => s.cutRecord p .periphFault .periphFault

/-! ### Confirmation (R75 to R77) -/

/-- The data record whose outbound burst a CNF or RPT can reach: the current one of a RUNNING port (R75, R76). -/
def Port.outboundRunning (P : Port) : Option Work :=
  if P.state = .running then
    match P.currentData with
    | some w => if w.dir = some .outbound then some w else none
    | none => none
  else none

/-- A CNF taken in CONFIRMING (R75): the burst's words are counted and the stall timer restarts; at LENGTH the record ends
DONE, else the burst is over. -/
def State.confirmed (s : State) (p : PortId) (w : Work) : State :=
  let s1 := s.modPort p fun P => { P.restartStall with moved := P.moved + P.exchanged }
  if w.length ≤ (s1.port p).moved then s1.endHere p .done .absent else s1.burstOver p

/-- The mark that a CNF leaves at a burst that began in its step (R78, log 29). -/
def Port.markAnswered (P : Port) : Port := { P with answered := P.phase == .transferring }

/-- An RPT now would be the second answer to the burst that the last CNF answered (R78): the burst that began in the step of
that CNF has sent no word, and no RPT has met it. -/
def Port.secondAnswer (P : Port) : Bool := P.answered && P.exchanged == 0

/-- CNF (R75): ignored outside CONFIRMING. With RDY present a CNF that returns a FILL to WAITING starts its next burst in the
same step, and one that ends its record DONE the burst of a FILL that becomes current behind it (R22, R85). That burst is
marked for an RPT that was raised together with the CNF (R78, log 29). A PAUSE or WITHDRAW taken after it finds the burst
open (DESIGN CHOICE, log 33). -/
def execCnf (p : PortId) (s : State) : Host.Outcome State Fault Refusal :=
  .next <| s.unlessReset fun s =>
    match (s.port p).outboundRunning with
    | none => s
    | some w =>
      if (s.port p).phase = .confirming then ((s.confirmed p w).serve p).modPort p Port.markAnswered else s

/-- RPT (R76, R77): in CONFIRMING the burst is repeated or the record ends REPEAT LIMIT; in TRANSFERRING the burst is cut,
at the end of the host access under way if there is one. It is ignored in WAITING, in the interval of a cut (log 12),
and, as R78 has it for an RPT that comes together with a CNF and is taken second, at the burst that began in the step of that
CNF, the next one of the same FILL or the first one of the FILL behind a record that the CNF ended. That the first RPT
before that burst has sent a word is this one is the model's choice (DESIGN CHOICE, log 29). -/
def execRpt (p : PortId) (s : State) : Host.Outcome State Fault Refusal :=
  .next <| s.unlessReset fun s =>
    match (s.port p).outboundRunning with
    | none => s
    | some w =>
      match (s.port p).phase with
      | .confirming => (s.repeatBurst p w).serve p
      | .transferring =>
        if (s.port p).cut.isSome then s
        else if (s.port p).secondAnswer then s.modPort p fun P => { P with answered := false }
        else if s.accessFor p then s.modPort p fun P => { P with cut := some .repeatRequest }
        else (s.repeatBurst p w).serve p
      | .waiting => s
      | .none => s

/-! ### RDY (R86, R87) -/

/-- RDY_RISE (R86): the level is present; a FILL or DRAIN burst may start, a MOVE's request stands. -/
def execRdyRise (p : PortId) (s : State) : Host.Outcome State Fault Refusal :=
  .next <| s.lineEvent p (fun P => { P with rdyLine := true }) fun s => s.modPort p Port.settle

/-- RDY_FALL (R86): a standing request is withdrawn with the level; a burst that wants a word ends its transfer phase as a
yield (R87, R94, log 15). -/
def execRdyFall (p : PortId) (s : State) : Host.Outcome State Fault Refusal :=
  .next <| s.lineEvent p (fun P => { P with rdyLine := false }) fun s =>
    if s.wantsInbound p || (s.wordInHand p).isSome then (s.transferEnd p).serve p else s

/-! ### Word exchanges (R67 to R70, R82) -/

/-- The exchange of an inbound word of a burst (R68, R92): WORDS PASSED, END PASSED with END, the stall timer
restarted. -/
def Port.takeWord (v : Word) (endMark : Bool) (P : Port) : Port :=
  { P.restartStall with
    wordsPassed := true
    endPassed := P.endPassed || endMark
    endTaken := P.endTaken || endMark
    lines := some ⟨.inbound, v, endMark⟩ }

/-- An inbound word delivered (R68): a MOVE's word is handed to the data path for its write, a DRAIN's is dropped and
counted at once. -/
def State.deliver (s : State) (p : PortId) (w : Work) (v : Word) : State :=
  if w.isMove then
    { s with access := some (.write (w.physicalAddress (s.port p).latch (s.port p).position) v) }
  else ((s.modPort p Port.countInbound).afterDelivery p w).serve p

/-- INBOUND_WORD_TAKEN (R67, R68): taken when a burst wants an inbound word and RDY is present. -/
def execInboundWordTaken (p : PortId) (v : Word) (endMark : Bool) (s : State) : Host.Outcome State Fault Refusal :=
  .next <| s.unlessReset fun s =>
    if s.wantsInbound p && (s.port p).rdyLine then
      match (s.port p).currentData with
      | some w => (s.modPort p (Port.takeWord v endMark)).deliver p w v
      | none => s
    else s

/-- The word at the position is the END word: the last of a record with CONTINUE clear (R70). -/
def Port.atEndWord (P : Port) (w : Work) : Bool := !w.cont && decide (P.position + 1 = w.length)

/-- The exchange of the outbound word in hand (R69, R70): WORDS PASSED, END PASSED with END, the position and the words
exchanged up by 1, the stall timer restarted. -/
def Port.sendWord (w : Work) (v : Word) (P : Port) : Port :=
  { P.restartStall with
    wordsPassed := true
    endPassed := P.endPassed || P.atEndWord w
    position := P.position + 1
    exchanged := P.exchanged + 1
    inHand := none
    lines := some ⟨.outbound, v, P.atEndWord w⟩ }

/-- After an outbound word is sent (R93, R94): the transfer phase ends at the burst length or the END word, else a MOVE
reads the next word and a FILL wants the lines for it. -/
def State.afterSending (s : State) (p : PortId) (w : Work) : State :=
  let P := s.port p
  if P.burstLength ≤ P.exchanged ∨ (w.cont = false ∧ w.length ≤ P.position) then s.transferEnd p
  else if w.isMove then s.startRead p w
  else s.wantWord p

/-- OUTBOUND_WORD_SENT (R67, R69): taken when an outbound word is in hand and RDY is present. -/
def execOutboundWordSent (p : PortId) (s : State) : Host.Outcome State Fault Refusal :=
  .next <| s.unlessReset fun s =>
    match s.wordInHand p, (s.port p).currentData with
    | some v, some w =>
      if (s.port p).rdyLine then ((s.modPort p (Port.sendWord w v)).afterSending p w).serve p else s
    | _, _ => s

/-- A word taken by resync discard (R82, R83): dropped and counted, up to FFFFh; END clears RESYNC. -/
def Port.discardWord (v : Word) (endMark : Bool) (P : Port) : Port :=
  { P with
    discarded := min 65535 (P.discarded + 1)
    resync := P.resync && !endMark
    lines := some ⟨.inbound, v, endMark⟩ }

/-- DISCARD_WORD (R82): taken when resync discard runs and RDY is present; END lets the head be examined. -/
def execDiscardWord (p : PortId) (v : Word) (endMark : Bool) (s : State) : Host.Outcome State Fault Refusal :=
  .next <| s.unlessReset fun s =>
    if (s.port p).discards && (s.port p).rdyLine then (s.modPort p (Port.discardWord v endMark)).serve p else s

end Sys2Proof.Machine
end

