-- ==== Sys2Proof/Machine/MapCommands.lean ====
section
/-! DEFINITION. The map unit's commands and events: PATCH, FENCE, MAPDATA and MAPSTAT accesses, the lookup, the patch
fetch, disturbances and the map initialisation (chapters 7 and 8). -/

namespace Sys2Proof.Machine

/-! ### The host PATCH command (R130) -/

/-- PATCH with a format port: MISALIGNED, then BUSY while a patch is in flight, else the claim is taken with origin
HOST (R130). -/
def State.hostPatch (s : State) (p : PortId) : State :=
  if s.map.patchAddr.toNat % 4 ≠ 0 then s.refuse 10 .misaligned 0
  else if s.map.engine.isSome then s.refuse 10 .busy 0
  else (s.takeClaim .host s.map.patchAddr p).accept 10 0

/-- PATCH (R130). -/
def execPatch (port : BitVec 4) (s : State) : Host.Outcome State Fault Refusal :=
  .next (s.portCommand 10 port fun p s => s.hostPatch p)

/-! ### FENCE (R138) -/

/-- The ports whose latch is valid (R138). -/
def State.latchedPorts (s : State) : PortSet := Vector.ofFn fun p => (s.port p).latch.isSome

/-- FENCE (R138): the set is fixed, and an empty one completes the fence at once. -/
def State.fence (s : State) : State :=
  if s.map.fencePending then s.refuse 11 .busy 0
  else
    let set := s.latchedPorts
    let m :=
      if set.isEmpty then { s.map with fenceSet := set, fenceEnd := true }
      else { s.map with fenceSet := set, fencePending := true }
    { s with map := m }.accept 11 set.count

/-- FENCE (R138). -/
def execFence (s : State) : Host.Outcome State Fault Refusal := .next (s.command 11 State.fence)

/-! ### MAPDATA and MAPSTAT (R121, R122, R125) -/

/-- A MAPDATA write (R121): discarded with WRITE IGNORED during INIT BUSY (R112). -/
def execMapdataWrite (v : Word) (s : State) : Host.Outcome State Fault Refusal :=
  .next <| s.unlessReset fun s =>
    if s.win.initBusy then s.ignoreWrite
    else { s with map := s.map.writeEntry s.map.mapIndex (mapContentsOfWord v) }

/-- A MAPDATA read (R122): 0 and no detection during INIT BUSY; otherwise a detection, and the entry as it stands
after it. -/
def execMapdataRead (narrow : Bool) (s : State) : Host.Outcome State Fault Refusal :=
  .next <| s.windowRead narrow fun s =>
    if s.win.initBusy then s.answerRead 0
    else
      let m := s.map.detect s.map.mapIndex
      { s with map := m }.answerRead (m.entry m.mapIndex).toWord

/-- The map flags cleared by a MAPSTAT word, bits 25 to 28 (R163, Table 11-8). -/
def MapUnit.clearFlags (m : MapUnit) (v : Word) : MapUnit :=
  { m with
    patchEnd := m.patchEnd && !flag v 25
    fenceEnd := m.fenceEnd && !flag v 26
    correctedFlag := m.correctedFlag && !flag v 27
    poisonedFlag := m.poisonedFlag && !flag v 28 }

/-- A write of MAPSTAT (R125, R136, R139, R163). -/
def execMapstatClear (v : Word) (s : State) : Host.Outcome State Fault Refusal :=
  .next <| s.unlessReset fun s => { s with map := s.map.clearFlags v }

/-! ### Lookup (R115, R116) -/

/-- Checks 2 to 5 of Table 7-2 on an entry as it stands after its detection. -/
def MapEntry.lookupFault (e : MapEntry) (dir : Direction) : Option LookupCause :=
  if e.poisoned then some .poisoned
  else if !e.contents.valid then some .invalid
  else
    match dir with
    | .inbound => if e.contents.write then none else some .noWrite
    | .outbound => if e.contents.read then none else some .noRead

/-- A lookup that faults (R91, R116): the latch is left invalid, the data path released, the record ended MAP FAULT. -/
def State.lookupFaulted (s : State) (p : PortId) (cause : LookupCause) (page : Nat) : State :=
  ((s.modPort p fun P => { P with lookupRequest := false }).endHere p .mapFault (.mapFault cause page)).serve p

/-- A lookup that succeeds (R116): the latch is loaded, and the burst goes on. -/
def State.lookupPassed (s : State) (p : PortId) (w : Work) (page : Nat) (e : MapEntry) : State :=
  (((s.modPort p fun P => { P with lookupRequest := false }).loadLatch p ⟨page, e.contents.frame⟩).translated p
    w).serve p

/-- The standing lookup request of a port taken whole (R115). -/
def State.lookup (s : State) (p : PortId) (w : Work) (dir : Direction) : State :=
  let page := w.pageAt (s.port p).burstStart
  let win := (s.port p).window
  if win.span ≤ page then s.lookupFaulted p .outsideWindow page
  else
    let s1 := { s with map := s.map.detect (win.base + page) }
    let e := s1.map.entry (win.base + page)
    match e.lookupFault dir with
    | some cause => s1.lookupFaulted p cause page
    | none => s1.lookupPassed p w page e

/-- LOOKUP (R115 to R117): taken when the port's lookup request stands. -/
def execLookup (p : PortId) (s : State) : Host.Outcome State Fault Refusal :=
  .next <| s.unlessReset fun s =>
    if (s.port p).lookupRequest then
      match (s.port p).currentData with
      | some w => match w.dir with
        | some dir => s.lookup p w dir
        | none => s
      | none => s
    else s

/-! ### The patch fetch (R133 to R136) -/

/-- A fetch goes on: the next word of the block is read (R133, R134). -/
def State.fetchNext (s : State) (f : Flight) : State :=
  { s with
    map := { s.map with engine := some f }
    access := some (.read (f.address.toNat + 4 * f.wordsRead)) }

/-- The staged pairs written in block order, a later pair over an earlier one (R136). -/
def MapUnit.commit (m : MapUnit) (staging : List (Nat × MapContents)) : MapUnit :=
  staging.foldl (fun m pair => m.writeEntry pair.1 pair.2) m

/-- The end of a patch (R136): the data path released, the outcome recorded, PATCH END set, the engine FREE and taking
the next waiting claim, and the PATCH record that it was claimed for retired. The claim is taken before the retirement, in
the order in which R136 lists them, so a PATCH record behind the retired one becomes current too late to compete for the
engine; section 8.6 tells the retirement first (DESIGN CHOICE, log 30). -/
def State.patchEnded (s : State) (f : Flight) (outcome : PatchOutcome) (st : Status) (d : Detail) : State :=
  let s1 := s.release
  let s2 := { s1 with map := { s1.map with engine := none, lastOutcome := outcome, patchEnd := true } }
  let s3 := s2.takeNextClaim
  match f.origin with
  | .host => s3
  | .port p =>
    if f.owned && (s3.port p).currentPatch.isSome then (s3.recordEnd p st d).serve p else s3

/-- A patch rejected with a cause: staging discarded, no entry written, the count that of the pairs fetched whole
(R136). -/
def State.patchRejected (s : State) (f : Flight) (cause : PatchCause) : State :=
  s.patchEnded f (.rejected cause f.staging.length f.origin) .patchRejected (.patch cause)

/-- A complete fetch commits (R136). -/
def State.patchApplied (s : State) (f : Flight) : State :=
  { s with map := s.map.commit f.staging }.patchEnded f (.applied f.count f.origin) .patched .absent

/-- Checks 2 and 3 of Table 8-3 on the header word (R133): COUNT 7:0, FORMAT 9:8 (Table 11-8). -/
def Flight.headerFault (f : Flight) (w : Word) : Option PatchCause :=
  let count := field w 0 8
  if count = 0 ∨ 32 < count ∨ 2 ^ 32 < f.address.toNat + 4 * (1 + 2 * count) then some .badCount
  else if 1 < field w 8 2 then some .badFormat
  else none

/-- Check 4 of Table 8-3 and the entry index an index word resolves to (R134). -/
def Flight.resolve (f : Flight) (w : Word) : Option Nat :=
  if f.relative then
    if w.toNat < f.span ∧ f.base + w.toNat < 1024 then some (f.base + w.toNat) else none
  else if w.toNat < 1024 then some w.toNat
  else none

/-- A word of the block read with data: header, then index and entry words in turn (R133, R134). -/
def State.patchWord (s : State) (f : Flight) (w : Word) : State :=
  if f.wordsRead = 0 then
    match f.headerFault w with
    | some cause => s.patchRejected { f with wordsRead := 1 } cause
    | none => s.fetchNext { f with wordsRead := 1, count := field w 0 8, relative := field w 8 2 == 1 }
  else
    match f.index with
    | none =>
      match f.resolve w with
      | none => s.patchRejected { f with wordsRead := f.wordsRead + 1 } .badIndex
      | some i => s.fetchNext { f with wordsRead := f.wordsRead + 1, index := some i }
    | some i =>
      let f1 :=
        { f with wordsRead := f.wordsRead + 1, index := none,
                 staging := f.staging ++ [(i, mapContentsOfWord w)] }
      if f.count ≤ f1.staging.length then s.patchApplied f1 else s.fetchNext f1

/-- The end of a read of the patch fetch: for a patch that soft reset abandoned, its response is discarded and the data
path released (R109, R137). -/
def State.patchReadEnd (s : State) (outcome : AccessOutcome) : State :=
  match s.map.engine with
  | none => s.release
  | some f =>
    if f.fetching then
      match outcome with
      | .error => s.patchRejected { f with wordsRead := f.wordsRead + 1 } .busError
      | .data w => s.patchWord f w
    else s

/-- PATCH_READ_END (R133 to R137): taken when the patch fetch holds the data path with a read under way. -/
def execPatchReadEnd (outcome : AccessOutcome) (s : State) : Host.Outcome State Fault Refusal :=
  .next <| s.unlessReset fun s =>
    if s.arbiter.holder = .patchFetch ∧ s.access.isSome then s.patchReadEnd outcome else s

/-! ### Disturbances (R123) -/

/-- An entry's disturbance item after an event; a POISONED entry absorbs it (R123). -/
def MapEntry.disturb (e : MapEntry) (size : DisturbanceSize) : MapEntry :=
  if e.poisoned then e
  else
    match e.disturbance, size with
    | .none, .oneBit => { e with disturbance := .oneBit }
    | .none, .twoBits => { e with disturbance := .twoBits }
    | .oneBit, .oneBit => { e with disturbance := .twoBits }
    | .oneBit, .twoBits => { e with disturbance := .twoBits }
    | .twoBits, .oneBit => e
    | .twoBits, .twoBits => e

/-- DISTURBANCE (R123). -/
def execDisturbance (index : Fin 1024) (size : DisturbanceSize) (s : State) : Host.Outcome State Fault Refusal :=
  .next <| s.unlessReset fun s =>
    { s with map := s.map.setEntry index.val ((s.map.entry index.val).disturb size) }

/-! ### The map initialisation (R112) -/

/-- The contents that the initialisation writes (R112). -/
def MapContents.initial : MapContents := ⟨0, false, false, false⟩

/-- The next entry written, in ascending order (R112). -/
def MapUnit.initEntry (m : MapUnit) : MapUnit :=
  if m.initNext < 1024 then { m.writeEntry m.initNext .initial with initNext := m.initNext + 1 } else m

/-- The rest of the entries written: none is left below 1024 (R112, log 9). -/
def MapUnit.initRest (m : MapUnit) : MapUnit :=
  { m with entries := m.entries.filter fun x => decide (x.1 < m.initNext), initNext := 1024 }

/-- INIT_ENTRY_WRITTEN (R112): taken while INIT BUSY is set and an entry is left. -/
def execInitEntryWritten (s : State) : Host.Outcome State Fault Refusal :=
  .next <| s.unlessReset fun s => if s.win.initBusy then { s with map := s.map.initEntry } else s

/-- INIT_END (R112): entry 1023 has been written and INIT BUSY clears. -/
def execInitEnd (s : State) : Host.Outcome State Fault Refusal :=
  .next <| s.unlessReset fun s =>
    if s.win.initBusy then { s with map := s.map.initRest, win := { s.win with initBusy := false } } else s

end Sys2Proof.Machine
end

