-- ==== Sys2Proof/Machine/PortCommands.lean ====
section
/-! DEFINITION. POST and the port commands: COMMAND opcodes 1 to 9 (chapters 1 and 2). -/

namespace Sys2Proof.Machine

/-- A record appended at the tail of the port's queue, in stage QUEUED (R12). -/
def Port.append (r : Record) (P : Port) : Port := { P with queue := P.queue ++ [⟨r, .queued⟩] }

/-- POST at a port: the checks of Table 1-3, then acceptance (R5, R12). -/
def State.post (s : State) (p : PortId) : State :=
  match postReason s.win (s.port p) s.occupied, stagedRecord s.win with
  | .accepted, some r =>
    ((s.modPort p (Port.append r)).accept 1 ((s.port p).queue.length + 1)).serveIdle p
  | why, _ => s.refuse 1 why (s.port p).queue.length

/-- POST (R5 to R13). -/
def execPost (port : BitVec 4) (s : State) : Host.Outcome State Fault Refusal :=
  .next (s.portCommand 1 port fun p s => s.post p)

/-! ### WITHDRAW (R34 to R36) -/

/-- A slot that WITHDRAW may choose: its record has not ended and its TAG matches (R34). -/
def Slot.chosenBy (tag : BitVec 16) (slot : Slot) : Bool := slot.stage != .ended && slot.record.tag == tag

/-- The message is open just before the record at place `i` of the queue (R35). -/
def Port.openBefore (P : Port) (i : Nat) : Bool :=
  match i with
  | 0 => P.messageOpen
  | j + 1 =>
    match P.queue[j]? with
    | some ahead => ahead.record.work.cont
    | none => false

/-- The removal of a queued record that would join an open message to the records behind it (R35). -/
def Port.removalRefused (P : Port) (i : Nat) (r : Record) : Bool :=
  r.work.isData && !r.work.cont && P.openBefore i && decide (i + 1 < P.queue.length)

/-- WITHDRAW of a chosen current record (R36). One that follows the end of a FILL's or DRAIN's burst with RDY present meets
the next burst open and is pending, where R26 has it act at once (DESIGN CHOICE, log 33). -/
def State.withdrawCurrent (s : State) (p : PortId) (r : Record) : State :=
  if r.work.isData then
    if (s.port p).burstOpen then
      (s.modPort p fun P => { P with abortPending := true }).accept 2 10
    else ((s.recordEnd p .aborted .absent).accept 2 9).serve p
  else if s.patchInFlight p then s.refuseAt 2 .busy p
  else (((s.withdrawClaim p).recordEnd p .aborted .absent).accept 2 9).serve p

/-- WITHDRAW at a port (R34). -/
def State.withdraw (s : State) (p : PortId) (tag : BitVec 16) : State :=
  if (s.port p).state = .resetting then s.refuseAt 2 .busy p
  else
    match (s.port p).queue.findIdx? (Slot.chosenBy tag) with
    | none => s.refuseAt 2 .noMatch p
    | some i =>
      match (s.port p).queue[i]? with
      | none => s.refuseAt 2 .noMatch p
      | some slot =>
        if slot.stage = .current then s.withdrawCurrent p slot.record
        else if (s.port p).removalRefused i slot.record then s.refuseAt 2 .openMessage p
        else
          ((s.modPort p fun P => { P with queue := P.queue.eraseIdx i }).accept 2 8).serveIdle p

/-- WITHDRAW (R34 to R36). -/
def execWithdraw (port : BitVec 4) (tag : BitVec 16) (s : State) : Host.Outcome State Fault Refusal :=
  .next (s.portCommand 2 port fun p s => s.withdraw p tag)

/-! ### ENABLE and DISABLE (R27, R28) -/

/-- ENABLE at a port (R27). RESULT shows the state that Table 2-4 gives, before the head is examined (log 11). -/
def State.enablePort (s : State) (p : PortId) : State :=
  match (s.port p).state with
  | .disabled => ((s.modPort p fun P => { P with state := .idle }).accept 3 PortState.idle.code).serve p
  | .resetting => s.refuseAt 3 .busy p
  | .idle | .running | .paused | .halted | .blocked => s.refuseAt 3 .wrongState p

/-- ENABLE (R27). -/
def execEnable (port : BitVec 4) (s : State) : Host.Outcome State Fault Refusal :=
  .next (s.portCommand 3 port fun p s => s.enablePort p)

/-- DISABLE at a port (R28). -/
def State.disablePort (s : State) (p : PortId) : State :=
  match (s.port p).state with
  | .disabled | .idle | .halted =>
    (s.modPort p fun P => { P with state := .disabled }).accept 4 PortState.disabled.code
  | .running | .paused | .blocked | .resetting => s.refuseAt 4 .busy p

/-- DISABLE (R28). -/
def execDisable (port : BitVec 4) (s : State) : Host.Outcome State Fault Refusal :=
  .next (s.portCommand 4 port fun p s => s.disablePort p)

/-! ### PAUSE and the resumes (R29 to R31) -/

/-- PAUSE at a port (R29). Value 7 is PENDING (Table 11-4). One that follows the end of a FILL's or DRAIN's burst with RDY
present meets the next burst open and is pending, where R26 has it act at once (DESIGN CHOICE, log 33). -/
def State.pausePort (s : State) (p : PortId) : State :=
  match (s.port p).state with
  | .idle => (s.modPort p Port.pauseHolding).accept 5 PortState.paused.code
  | .running =>
    if (s.port p).burstOpen || s.patchInFlight p then
      (s.modPort p fun P => { P with pausePending := true }).accept 5 7
    else ((s.withdrawClaim p).modPort p Port.pauseHolding).accept 5 PortState.paused.code
  | .blocked => (s.modPort p fun P => { P with pausePending := true }).accept 5 7
  | .paused => s.accept 5 PortState.paused.code
  | .disabled | .halted => s.refuseAt 5 .wrongState p
  | .resetting => s.refuseAt 5 .busy p

/-- PAUSE (R29). -/
def execPause (port : BitVec 4) (s : State) : Host.Outcome State Fault Refusal :=
  .next (s.portCommand 5 port fun p s => s.pausePort p)

/-- A held record taken up again (R30): RUNNING, a data record with its stall timer at 0, a PATCH record a claimant
again. -/
def State.resumeHeld (s : State) (p : PortId) (r : Record) : State :=
  match r.work with
  | .patch a => (s.modPort p fun P => { P with state := .running }).raiseClaim p a
  | .mark => s.modPort p fun P => { P with state := .running }
  | .move _ _ _ _ _ _ | .fill _ _ _ | .drain _ _ _ =>
    s.modPort p fun P => { P with state := .running, stallTimer := some 0 }

/-- A resume at a port (R30, R31); `halted` is what it does to the message flags in HALTED. -/
def State.resumePort (s : State) (op : BitVec 4) (halted : Port → Port) (p : PortId) : State :=
  match (s.port p).state with
  | .paused =>
    match (s.port p).current with
    | some r => ((s.resumeHeld p r).accept op PortState.running.code).serve p
    | none => ((s.modPort p fun P => { P with state := .idle }).accept op PortState.idle.code).serve p
  | .halted =>
    ((s.modPort p fun P => { halted P with state := .idle }).accept op PortState.idle.code).serve p
  | .running =>
    if (s.port p).pausePending then
      ((s.modPort p fun P => { P with pausePending := false }).accept op PortState.running.code).serve p
    else s.refuseAt op .wrongState p
  | .disabled | .idle | .blocked => s.refuseAt op .wrongState p
  | .resetting => s.refuseAt op .busy p

/-- RESUME-RECORD (R30): in HALTED the message flags stay. -/
def execResumeRecord (port : BitVec 4) (s : State) : Host.Outcome State Fault Refusal :=
  .next (s.portCommand 6 port fun p s => s.resumePort 6 id p)

/-- RESUME-MESSAGE's effect on the message flags in HALTED: SKIP in place of MSG-OPEN (R31). -/
def Port.skipMessage (P : Port) : Port := if P.msgOpen then P.setSkip else P

/-- RESUME-MESSAGE (R31). -/
def execResumeMessage (port : BitVec 4) (s : State) : Host.Outcome State Fault Refusal :=
  .next (s.portCommand 7 port fun p s => s.resumePort 7 Port.skipMessage p)

/-! ### FLUSH (R32, R33) -/

/-- FLUSH's repair and closing of the open message (R33). -/
def Port.flushMessage (P : Port) : Port :=
  let P1 :=
    if P.messageOpen && P.msgDir == .inbound && !P.endPassed then { P with resync := true }
    else if P.messageOpen && P.outboundBroken then P.driveCan
    else P
  P1.closeMessage

/-- The records of a queue dropped by FLUSH, a held record ending with them (R32). -/
def Port.dropQueue (P : Port) : Port :=
  { P.endBurst with queue := [] }

/-- A PORT report posted by a FLUSH that dropped records (R32). -/
def State.postFlushed (s : State) (p : PortId) (count : Nat) : State :=
  if count = 0 then s else { s with reports := s.reports.post (.flushed p count) }

/-- FLUSH taken at a port (R32). -/
def State.flushTaken (s : State) (p : PortId) : State :=
  let count := (s.port p).queue.length
  ((((s.dropLatch p).modPort p fun P => P.dropQueue.flushMessage).postFlushed p count).accept 8 count).serve p

/-- FLUSH at a port (R32). -/
def State.flushPort (s : State) (p : PortId) : State :=
  match (s.port p).state with
  | .disabled | .idle | .paused | .halted =>
    if (s.port p).queue ≠ [] ∧ s.reports.full then s.refuseAt 8 .reportFull p else s.flushTaken p
  | .running | .blocked | .resetting => s.refuseAt 8 .busy p

/-- FLUSH (R32, R33). -/
def execFlush (port : BitVec 4) (s : State) : Host.Outcome State Fault Refusal :=
  .next (s.portCommand 8 port fun p s => s.flushPort p)

/-! ### PORT RESET (R37) -/

/-- A port's context after PORT RESET (Table 2-1, second column, R65): its records and progress are gone, its lines
released, CONFIG, WINDOW, ATTACHED and the input levels kept. CAN is asserted for a broken outbound message (R37), and
otherwise deasserted at once (R65), also inside the hold of an earlier CAN event, which R79 lets run to its second 1 µs step
(DESIGN CHOICE, log 35). -/
def Port.reset (state : PortState) (P : Port) : Port :=
  { Port.powerOn with
    state := state
    config := P.config
    window := P.window
    attached := P.attached
    attLine := P.attLine
    rdyLine := P.rdyLine
    can := if P.messageOpen && P.outboundBroken then some 0 else none }

/-- The in-flight patch of a port whose PATCH record is dropped runs on, but no record will retire for it (R136). -/
def MapUnit.disownPatch (m : MapUnit) (p : PortId) : MapUnit :=
  { m with engine := m.engine.map fun f => if f.origin = .port p then { f with owned := false } else f }

/-- The state that a reset leaves a port in: RESETTING while it holds the data path (R37, R46). -/
def State.stateAfterReset (s : State) (p : PortId) : PortState :=
  if s.arbiter.holder = .port p then .resetting else .disabled

/-- PORT RESET at a port (R37): the port leaves the fence set, the waiting claims and the blocked list. -/
def State.resetPort (s : State) (p : PortId) : State :=
  if (s.port p).state = .resetting then s.refuseAt 9 .busy p
  else
    let next := s.stateAfterReset p
    let s1 := (s.dropLatch p).withdrawClaim p
    ({ s1.modPort p (Port.reset next) with
      map := s1.map.disownPatch p
      reports := { s1.reports with blocked := s1.reports.blocked.filter fun q => q != p } }).accept 9 next.code

/-- PORT RESET (R37). -/
def execPortReset (port : BitVec 4) (s : State) : Host.Outcome State Fault Refusal :=
  .next (s.portCommand 9 port fun p s => s.resetPort p)

end Sys2Proof.Machine
end

