-- ==== Sys2Proof/Machine/ReportCommands.lean ====
section
/-! DEFINITION. The report queue's commands: POP, RQCTRL and RQSTAT writes, the holdoff expiry (chapter 9). -/

namespace Sys2Proof.Machine

/-- The report of the first port on the blocked list is admitted (R145 step 2): it is posted, and the port's retirement
completes with the status fixed at the record end (R146). -/
def State.admitFirst (s : State) : State :=
  match s.reports.blocked with
  | [] => s
  | p :: rest =>
    let q := { s.reports with blocked := rest }
    match (s.port p).heldReport with
    | none => { s with reports := q }
    | some rep =>
      ({ s with reports := q.post rep }.modPort p (Port.completeRetirement rep.status)).serve p

/-- POP (R145): RESULT shows the count after the step. -/
def State.pop (s : State) : State :=
  match s.reports.entries with
  | [] => s.refuse 12 .reportEmpty 0
  | _ :: _ =>
    let s1 := { s with reports := s.reports.removeHead }.admitFirst
    s1.accept 12 s1.reports.entries.length

/-- POP (R145 to R148). One that follows a SOFT RESET is refused BUSY while RESET BUSY is set and REPORT EMPTY once it is
clear (R145, R166; R152 names BUSY alone: DESIGN CHOICE, log 31). -/
def execPop (s : State) : Host.Outcome State Fault Refusal := .next (s.command 12 State.pop)

/-- RQCTRL with a new THRESHOLD and HOLDOFF: a raising at once where the unannounced count or the running timer has
reached the new value (R151). -/
def ReportQueue.configure (q : ReportQueue) (threshold holdoff : Nat) : ReportQueue :=
  let q1 := { q with threshold := threshold, holdoff := holdoff }
  if 1 ≤ q.unannounced ∧ threshold ≤ q.unannounced then q1.raise
  else
    match q.holdoffTimer with
    | some n => if holdoff ≤ n then q1.raise else q1
    | none => q1

/-- RQCTRL_WRITE (R151): THRESHOLD 5:0, HOLDOFF 15:8; discarded during INIT BUSY and for a THRESHOLD of 0 or above 32
(R165). -/
def execRqctrlWrite (v : Word) (s : State) : Host.Outcome State Fault Refusal :=
  .next <| s.unlessReset fun s =>
    if s.win.initBusy || field v 0 6 == 0 || decide (32 < field v 0 6) then s.ignoreWrite
    else { s with reports := s.reports.configure (field v 0 6) (field v 8 8) }

/-- REPORT_DUE_CLEAR (R151): a 1 written to bit 24 of RQSTAT clears REPORT DUE and nothing else. -/
def execReportDueClear (v : Word) (s : State) : Host.Outcome State Fault Refusal :=
  .next <| s.unlessReset fun s =>
    { s with reports := { s.reports with reportDue := s.reports.reportDue && !flag v 24 } }

/-- HOLDOFF_EXPIRY (R150): taken when the timer runs and its count has reached HOLDOFF. -/
def execHoldoffExpiry (s : State) : Host.Outcome State Fault Refusal :=
  .next <| s.unlessReset fun s =>
    match s.reports.holdoffTimer with
    | some n => if s.reports.holdoff ≤ n then { s with reports := s.reports.raise } else s
    | none => s

end Sys2Proof.Machine
end

