-- ==== Sys2Proof/Machine/Timers.lean ====
section
/-! DEFINITION. The timers' events and the time base (R79 to R81, R150, R164). -/

namespace Sys2Proof.Machine

/-- A port's stall timer is due: it counts and its count has reached STALL LIMIT (R81). -/
def Port.stallDue (P : Port) : Bool :=
  P.stallCounts && (match P.stallTimer with | some n => decide (P.config.stallLimit.toNat ≤ n) | none => false)

/-- STALL_EXPIRY (R81): taken while the timer counts and its count has reached STALL LIMIT. -/
def execStallExpiry (p : PortId) (s : State) : Host.Outcome State Fault Refusal :=
  .next <| s.unlessReset fun s =>
    if (s.port p).stallDue then (s.endHere p .stalled .absent).serve p else s

/-- A port's CAN is due for its release: the second 1 µs step since it was last driven has passed (R79). -/
def Port.canDue (P : Port) : Bool :=
  match P.can with
  | some k => decide (2 ≤ k)
  | none => false

/-- CAN_RELEASE (R79): taken once CAN has stood until the second 1 µs step after it was last driven; a CAN event that
restarted the count holds it on. -/
def execCanRelease (p : PortId) (s : State) : Host.Outcome State Fault Refusal :=
  .next <| s.unlessReset fun s =>
    if (s.port p).canDue then s.modPort p fun P => { P with can := none } else s

/-- A port's stall timer at a time unit step (R80): a counting timer rises by 1 and waits at STALL LIMIT for its expiry. -/
def Port.stallStep (P : Port) : Port :=
  if P.stallCounts then
    { P with stallTimer := P.stallTimer.map fun n => min (n + 1) P.config.stallLimit.toNat }
  else P

/-- The holdoff timer at a time unit step (R150): a running timer rises by 1 and waits at HOLDOFF for its expiry. -/
def ReportQueue.holdoffStep (q : ReportQueue) : ReportQueue :=
  { q with holdoffTimer := q.holdoffTimer.map fun n => min (n + 1) q.holdoff }

/-- TIME_UNIT_STEP (R80, R150). -/
def execTimeUnitStep (s : State) : Host.Outcome State Fault Refusal :=
  .next <| s.unlessReset fun s =>
    { (s.mapPorts fun _ => Port.stallStep) with reports := s.reports.holdoffStep }

/-! ### The time base (R164) -/

/-- CAN's count of 1 µs steps (R79). -/
def Port.canStep (P : Port) : Port := { P with can := P.can.map fun k => min (k + 1) 2 }

/-- The CAN_RELEASE events that a 1 µs step brings: one for each port at its second step (R79). -/
def State.canReleases (s : State) : List Instr :=
  (allPorts.filter fun p => (s.port p).canDue).map Instr.canRelease

/-- A 1 µs step (R164): CAN counts rise, every 64th step is a time unit step, and the next 1 µs step begins with TBDIV as
it stands. The events that fall due are appended to the queue. -/
def State.microStep (s : State) : State :=
  let s1 := s.mapPorts fun _ => Port.canStep
  let unit := s.time.stepCount + 1 == 64
  { s1 with
    time := ⟨0, s.win.tbdiv.toNat, if unit then 0 else s.time.stepCount + 1⟩
    pending := s.pending ++ s1.canReleases ++ (if unit then [.timeUnitStep] else []) }

/-- The holdoff timer is due: it runs and its count has reached HOLDOFF (R150). -/
def ReportQueue.holdoffDue (q : ReportQueue) : Bool :=
  match q.holdoffTimer with
  | some n => decide (q.holdoff ≤ n)
  | none => false

/-- The expiries that are due (R81, R150). -/
def State.dueExpiries (s : State) : List Instr :=
  (allPorts.filter fun p => (s.port p).stallDue).map Instr.stallExpiry ++
    (if s.reports.holdoffDue then [.holdoffExpiry] else [])

/-- What the part does when no command waits (log 7): the expiries that are due are appended to the queue (log 8); with
none due, one CLK cycle of the time base passes (R164). Nothing happens while RESET is held. -/
def State.clockCycle (s : State) : State :=
  if s.win.resetHeld then s
  else if s.dueExpiries ≠ [] then { s with pending := s.pending ++ s.dueExpiries }
  else if s.time.clkCount + 1 < s.time.stepLength then
    { s with time := { s.time with clkCount := s.time.clkCount + 1 } }
  else s.microStep

end Sys2Proof.Machine
end

