-- ==== Sys2Proof/Machine/WindowCommands.lean ====
section
/-! DEFINITION. The window's own commands: BAD_COMMAND, SOFT RESET, GCTRL and GSTAT writes, the port registers, plain
register writes, and the RESET line (chapter 11). -/

namespace Sys2Proof.Machine

/-! ### Commands (R166, R167) -/

/-- BAD_COMMAND (R166): refused in every state of the part. -/
def execBadCommand (opcode : BitVec 4) (s : State) : Host.Outcome State Fault Refusal :=
  .next <| s.unlessReset fun s => s.refuse opcode .badCommand 0

/-- A port's context after soft reset (Table 2-1, R43, R46): as after power-on, ATTACHED at the level of ATT, CAN
asserted for a broken outbound message, and otherwise deasserted at once (R65), also inside the hold of an earlier CAN event,
which R79 lets run to its second 1 µs step (DESIGN CHOICE, log 35). -/
def Port.softReset (state : PortState) (P : Port) : Port :=
  { Port.powerOn with
    state := state
    attached := P.attLine
    attLine := P.attLine
    rdyLine := P.rdyLine
    can := if P.messageOpen && P.outboundBroken then some 0 else none }

/-- The map unit after soft reset (R113, R137, R140): the table and the correction count are kept. -/
def MapUnit.softReset (m : MapUnit) : MapUnit :=
  { MapUnit.powerOn with entries := m.entries, initNext := m.initNext, corrections := m.corrections }

/-- The data path stays held over a soft reset: by a port, which leaves RESETTING at its release, or by a patch fetch with
a read under way; an abandoned fetch without one releases at once (R98, R109, R137). -/
def State.heldOver (s : State) : Bool :=
  match s.arbiter.holder with
  | .none => false
  | .port _ => true
  | .patchFetch => s.access.isSome

/-- The window after soft reset (R167, Table 11-5), RESULT aside. -/
def HostWindow.softReset (held : Bool) (w : HostWindow) : HostWindow :=
  { HostWindow.powerOn with initBusy := false, resetBusy := held, result := w.result, resetHeld := w.resetHeld,
                            hostRead := w.hostRead }

/-- Every block reset at once (R167); the commands that wait are not the part's and stay. -/
def State.softReset (s : State) : State :=
  let held := s.heldOver
  { (s.mapPorts fun p => Port.softReset (s.stateAfterReset p)) with
    win := s.win.softReset held
    arbiter := { Arbiter.powerOn with holder := if held then s.arbiter.holder else .none }
    access := if held then s.access else none
    map := s.map.softReset
    reports := .powerOn
    attn := .powerOn
    time := .powerOn }

/-- SOFT RESET (R166, R167): refused BUSY only while INIT BUSY is set; its value is 1 when RESET BUSY is left set. -/
def execSoftReset (s : State) : Host.Outcome State Fault Refusal :=
  .next <| s.unlessReset fun s =>
    if s.win.initBusy then s.refuse 15 .busy 0
    else
      let s1 := s.softReset
      s1.accept 15 (bitOf s1.win.resetBusy)

/-! ### GCTRL and GSTAT (R164, R165) -/

/-- GCTRL_WRITE (R164): ATTN ENABLE bit 0, TBDIV 15:8; discarded when TBDIV is 0. The time base takes the new TBDIV at
its next 1 µs step. -/
def execGctrlWrite (v : Word) (s : State) : Host.Outcome State Fault Refusal :=
  .next <| s.unlessReset fun s =>
    if field v 8 8 == 0 then s.ignoreWrite
    else { s with win := { s.win with attnEnable := flag v 0, tbdiv := bits v 8 8 } }

/-- WRITE_IGNORED_CLEAR (R163): bit 2 of GSTAT. -/
def execWriteIgnoredClear (v : Word) (s : State) : Host.Outcome State Fault Refusal :=
  .next <| s.unlessReset fun s =>
    { s with win := { s.win with writeIgnored := s.win.writeIgnored && !flag v 2 } }

/-! ### Port registers (R42, R44) -/

/-- CONFIG_WRITE (R44): taken in DISABLED with its fields in range, else discarded with WRITE IGNORED. -/
def execConfigWrite (p : PortId) (f : ConfigFields) (s : State) : Host.Outcome State Fault Refusal :=
  .next <| s.unlessReset fun s =>
    match (s.port p).state, configOfFields f with
    | .disabled, some c => s.modPort p fun P => { P with config := c }
    | _, _ => s.ignoreWrite

/-- WINDOW_WRITE (R44): taken in DISABLED with BASE and SPAN in range, else discarded with WRITE IGNORED. -/
def execWindowWrite (p : PortId) (v : Word) (s : State) : Host.Outcome State Fault Refusal :=
  .next <| s.unlessReset fun s =>
    if (s.port p).state = .disabled ∧ (windowOfWord v).inRange then
      s.modPort p fun P => { P with window := windowOfWord v }
    else s.ignoreWrite

/-- The status flags cleared by a PORTp STATUS word, bits 16 to 18 (R42, R163, Table 11-9). -/
def Port.clearFlags (v : Word) (P : Port) : Port :=
  { P with
    haltEvent := P.haltEvent && !flag v 16
    attachChange := P.attachChange && !flag v 17
    pauseReached := P.pauseReached && !flag v 18 }

/-- PORT_STATUS_CLEAR (R42). -/
def execPortStatusClear (p : PortId) (v : Word) (s : State) : Host.Outcome State Fault Refusal :=
  .next <| s.unlessReset fun s => s.modPort p (Port.clearFlags v)

/-! ### Registers without behaviour of their own (R4, R121, R125, R130, R154, R162) -/

/-- A 32-bit write of a register without behaviour of its own; MAPINDEX is judged on its whole value and discarded
during INIT BUSY (R112, R121); every other offset is unlisted or read-only, and the write discarded (R162). -/
def State.plainWrite (s : State) (offset : BitVec 8) (v : Word) : State :=
  match offset.toNat with
  | 0x14 => { s with win := { s.win with stage0 := v } }
  | 0x18 => { s with win := { s.win with stage1 := v } }
  | 0x1C => { s with win := { s.win with stage2 := v } }
  | 0x20 => { s with win := { s.win with stage3 := v } }
  | 0x38 =>
    if s.win.initBusy || decide (1023 < v.toNat) then s.ignoreWrite
    else { s with map := { s.map with mapIndex := v.toNat } }
  | 0x44 => { s with map := { s.map with mapEn := bits v 0 4 } }
  | 0x48 => { s with map := { s.map with patchAddr := v } }
  | 0x50 => { s with attn := { s.attn with alevel := bits v 0 20 } }
  | 0x54 => { s with attn := { s.attn with amask := bits v 0 4 } }
  | _ => s.ignoreWrite

/-- REGISTER_WRITE (R162): a narrow write is discarded whole. A 32-bit write to a register with a row of its own is that
row and not this one: it is no well-formed REGISTER_WRITE, and nothing is taken (log 19). -/
def execRegisterWrite (offset : BitVec 8) (narrow : Bool) (v : Word) (s : State) :
    Host.Outcome State Fault Refusal :=
  .next <| s.unlessReset fun s =>
    if narrow then s.ignoreWrite
    else if (writeRow offset v).isSome then s
    else s.plainWrite offset v

/-! ### The RESET line (R168) -/

/-- RESET_ASSERTED (R168): while RESET is held the window reads 0 and discards writes (log 10). -/
def execResetAsserted (s : State) : Host.Outcome State Fault Refusal :=
  .next { s with win := { s.win with resetHeld := true } }

/-- A port's context after power-on reset, its input lines at their levels and ATTACHED at that of ATT (R43, R46). -/
def Port.powerOnAt (P : Port) : Port :=
  { Port.powerOn with attached := P.attLine, attLine := P.attLine, rdyLine := P.rdyLine }

/-- POWER_ON_RESET (R168): RESET is released, every block holds its power-on values and the map initialisation starts
at entry 0. The commands that wait are not the part's and stay. -/
def execPowerOnReset (s : State) : Host.Outcome State Fault Refusal :=
  .next { State.reset with
    ports := (s.mapPorts fun _ => Port.powerOnAt).ports
    pending := s.pending }

end Sys2Proof.Machine
end

