-- ==== Sys2Proof/Machine/Dispatch.lean ====
section
/-! DEFINITION. One arm for each command of the table. -/

namespace Sys2Proof.Machine

def exec (i : Instr) (s : State) : Host.Outcome State Fault Refusal :=
  match i with
  | .post port => Sys2Proof.Machine.execPost port s
  | .withdraw port tag => Sys2Proof.Machine.execWithdraw port tag s
  | .enable port => Sys2Proof.Machine.execEnable port s
  | .disable port => Sys2Proof.Machine.execDisable port s
  | .pause port => Sys2Proof.Machine.execPause port s
  | .resumeRecord port => Sys2Proof.Machine.execResumeRecord port s
  | .resumeMessage port => Sys2Proof.Machine.execResumeMessage port s
  | .flush port => Sys2Proof.Machine.execFlush port s
  | .portReset port => Sys2Proof.Machine.execPortReset port s
  | .patch port => Sys2Proof.Machine.execPatch port s
  | .fence => Sys2Proof.Machine.execFence s
  | .pop => Sys2Proof.Machine.execPop s
  | .softReset => Sys2Proof.Machine.execSoftReset s
  | .badCommand opcode => Sys2Proof.Machine.execBadCommand opcode s
  | .ackpeek narrow => Sys2Proof.Machine.execAckpeek narrow s
  | .acknest narrow => Sys2Proof.Machine.execAcknest narrow s
  | .eos v => Sys2Proof.Machine.execEos v s
  | .mapdataWrite v => Sys2Proof.Machine.execMapdataWrite v s
  | .mapdataRead narrow => Sys2Proof.Machine.execMapdataRead narrow s
  | .configWrite p f => Sys2Proof.Machine.execConfigWrite p f s
  | .windowWrite p v => Sys2Proof.Machine.execWindowWrite p v s
  | .rqctrlWrite v => Sys2Proof.Machine.execRqctrlWrite v s
  | .gctrlWrite v => Sys2Proof.Machine.execGctrlWrite v s
  | .portStatusClear p v => Sys2Proof.Machine.execPortStatusClear p v s
  | .reportDueClear v => Sys2Proof.Machine.execReportDueClear v s
  | .mapstatClear v => Sys2Proof.Machine.execMapstatClear v s
  | .astatClear v => Sys2Proof.Machine.execAstatClear v s
  | .writeIgnoredClear v => Sys2Proof.Machine.execWriteIgnoredClear v s
  | .registerWrite offset narrow v => Sys2Proof.Machine.execRegisterWrite offset narrow v s
  | .powerOnReset => Sys2Proof.Machine.execPowerOnReset s
  | .initEnd => Sys2Proof.Machine.execInitEnd s
  | .attach p => Sys2Proof.Machine.execAttach p s
  | .detach p => Sys2Proof.Machine.execDetach p s
  | .flt p => Sys2Proof.Machine.execFlt p s
  | .cnf p => Sys2Proof.Machine.execCnf p s
  | .rpt p => Sys2Proof.Machine.execRpt p s
  | .rdyRise p => Sys2Proof.Machine.execRdyRise p s
  | .rdyFall p => Sys2Proof.Machine.execRdyFall p s
  | .inboundWordTaken p w endMark => Sys2Proof.Machine.execInboundWordTaken p w endMark s
  | .outboundWordSent p => Sys2Proof.Machine.execOutboundWordSent p s
  | .discardWord p w endMark => Sys2Proof.Machine.execDiscardWord p w endMark s
  | .grant => Sys2Proof.Machine.execGrant s
  | .lookup p => Sys2Proof.Machine.execLookup p s
  | .hostAccessEnd outcome => Sys2Proof.Machine.execHostAccessEnd outcome s
  | .patchReadEnd outcome => Sys2Proof.Machine.execPatchReadEnd outcome s
  | .resettingRelease p => Sys2Proof.Machine.execResettingRelease p s
  | .disturbance index size => Sys2Proof.Machine.execDisturbance index size s
  | .stallExpiry p => Sys2Proof.Machine.execStallExpiry p s
  | .holdoffExpiry => Sys2Proof.Machine.execHoldoffExpiry s
  | .canRelease p => Sys2Proof.Machine.execCanRelease p s
  | .timeUnitStep => Sys2Proof.Machine.execTimeUnitStep s
  | .initEntryWritten => Sys2Proof.Machine.execInitEntryWritten s
  | .resetAsserted => Sys2Proof.Machine.execResetAsserted s

end Sys2Proof.Machine
end

