-- ==== Sys2Proof/Machine/Registers.lean ====
section
/-! DEFINITION. What a read of each window register shows (Tables 11-1 and 11-6 to 11-10, R162, R170). Only the reads
of ACKNEST and MAPDATA change state, and they are commands (R158, R122); the rest are functions of the state. -/

namespace Sys2Proof.Machine

/-- Reason codes of RESULT (Table 11-3). -/
def Reason.code : Reason → Nat
  | .accepted => 0
  | .badCommand => 1
  | .badPort => 2
  | .wrongState => 3
  | .busy => 4
  | .poolEmpty => 5
  | .quota => 6
  | .badKind => 7
  | .badLength => 8
  | .misaligned => 9
  | .unmappedDenied => 10
  | .patchDenied => 11
  | .openMessage => 12
  | .directionMismatch => 13
  | .noMatch => 14
  | .reportFull => 15
  | .reportEmpty => 16

/-- RESULT: opcode 3:0, REFUSED 4, reason 12:8, value 31:16 (Table 11-6). -/
def CommandResult.toWord (r : CommandResult) : Word :=
  BitVec.ofNat 32 (r.opcode.toNat + 16 * bitOf (r.reason != .accepted) + 256 * r.reason.code + 65536 * r.value)

/-- STATUS codes of REPORT0 (Table 11-7). -/
def Status.code : Status → Nat
  | .done => 1
  | .short => 2
  | .skipped => 3
  | .aborted => 4
  | .marked => 5
  | .patched => 6
  | .underrun => 8
  | .overrun => 9
  | .repeatLimit => 10
  | .periphFault => 11
  | .stalled => 12
  | .detached => 13
  | .mapFault => 14
  | .busError => 15
  | .patchRejected => 16

/-- MAP FAULT causes of REPORT2 (Table 11-7). -/
def LookupCause.code : LookupCause → Nat
  | .outsideWindow => 1
  | .poisoned => 2
  | .invalid => 3
  | .noWrite => 4
  | .noRead => 5

/-- PATCH REJECTED causes of REPORT2 and MAPSTAT (Table 11-7). -/
def PatchCause.code : PatchCause → Nat
  | .badCount => 1
  | .badFormat => 2
  | .badIndex => 3
  | .busError => 4

/-- REPORT0 of the head entry; KIND EMPTY and 0 for an empty queue (R144). -/
def Report.word0 : Report → Nat
  | .record port st _ _ messageEnd repeats urgent _ =>
    1 + 16 * port.val + 128 * bitOf messageEnd + 256 * st.code + 8192 * bitOf urgent + 65536 * repeats
  | .flushed port _ => 2 + 16 * port.val + 256 * 24

/-- REPORT1: MOVED or COUNT, and TAG. -/
def Report.word1 : Report → Nat
  | .record _ _ tag moved _ _ _ _ => moved + 65536 * tag.toNat
  | .flushed _ count => count

/-- REPORT2: DETAIL. -/
def Report.word2 : Report → Nat
  | .record _ _ _ _ _ _ _ (.mapFault cause page) => cause.code + 4096 * page
  | .record _ _ _ _ _ _ _ (.patch cause) => cause.code
  | .record _ _ _ _ _ _ _ .absent => 0
  | .flushed _ _ => 0

/-- A field of the head entry, 0 while the queue is empty (R144). -/
def ReportQueue.headField (q : ReportQueue) (f : Report → Nat) : Word :=
  match q.entries with
  | [] => 0
  | e :: _ => BitVec.ofNat 32 (f e.report)

/-- RQSTAT (Table 11-10). -/
def ReportQueue.statWord (q : ReportQueue) : Word :=
  BitVec.ofNat 32 (q.entries.length + 256 * q.unannounced + 65536 * q.blocked.length + 2 ^ 24 * bitOf q.reportDue)

/-- The origin codes of MAPSTAT: the port, or 8 for HOST. -/
def Origin.code : Origin → Nat
  | .port p => p.val
  | .host => 8

/-- The last-outcome fields of MAPSTAT, bits 14:0; the fields an outcome does not give are free (log 20). -/
def PatchOutcome.field : PatchOutcome → Nat
  | .none => 4 * Config.mapstatNoOutcome.toNat
  | .applied count origin => 1 + 4 * Config.mapstatNoCause.toNat + 32 * count + 2048 * origin.code
  | .rejected cause count origin => 2 + 4 * cause.code + 32 * count + 2048 * origin.code

/-- MAPSTAT (Table 11-8). -/
def MapUnit.statWord (m : MapUnit) : Word :=
  BitVec.ofNat 32 (m.lastOutcome.field + 2 ^ 15 * bitOf m.engine.isSome + 2 ^ 16 * bitOf m.fencePending
    + 2 ^ 17 * m.corrections + 2 ^ 25 * bitOf m.patchEnd + 2 ^ 26 * bitOf m.fenceEnd
    + 2 ^ 27 * bitOf m.correctedFlag + 2 ^ 28 * bitOf m.poisonedFlag)

/-- Codes of the burst phases in PORTp STATUS (Table 11-9). -/
def Phase.code : Phase → Nat
  | .none => 0
  | .waiting => 1
  | .transferring => 2
  | .confirming => 3

/-- PORTp STATUS (Table 11-9). -/
def Port.statusWord (P : Port) : Word :=
  BitVec.ofNat 32 (P.state.code + 16 * P.phase.code + 2 ^ 8 * bitOf P.attached + 2 ^ 9 * bitOf P.msgOpen
    + 2 ^ 10 * bitOf P.skip + 2 ^ 11 * bitOf P.resync + 2 ^ 16 * bitOf P.haltEvent
    + 2 ^ 17 * bitOf P.attachChange + 2 ^ 18 * bitOf P.pauseReached)

/-- PORTp WINDOW (Table 11-9). -/
def PortWindow.toWord (w : PortWindow) : Word := BitVec.ofNat 32 (w.base + 65536 * w.span)

/-- PORTp COUNTS (Table 11-9). -/
def Port.countsWord (P : Port) : Word := BitVec.ofNat 32 (P.queue.length + 65536 * P.discarded)

/-- ASTAT (Table 11-10): the stack entries bottom first, unoccupied ones 0. -/
def Attention.statWord (a : Attention) : Word :=
  let bottomFirst := a.stack.reverse
  BitVec.ofNat 32 (a.csl + 16 * a.stack.length + 2 ^ 8 * bottomFirst.getD 0 0 + 2 ^ 12 * bottomFirst.getD 1 0
    + 2 ^ 16 * bottomFirst.getD 2 0 + 2 ^ 20 * bottomFirst.getD 3 0 + 2 ^ 24 * bitOf a.overflow
    + 2 ^ 25 * bitOf a.underflow)

/-- IDENT (R164): vendor 5A4Ah, part 812h, revision 1. -/
def identWord : Word := 0x18125A4A

/-- A port register by its offset in the port's block (Table 11-9). -/
def Port.readWord (P : Port) (offset : Nat) : Word :=
  match offset with
  | 0x0 => P.statusWord
  | 0x4 => Config.configWord P.config.toFields
  | 0x8 => P.window.toWord
  | 0xC => P.countsWord
  | _ => 0

/-- What a 32-bit read of a window register shows (Table 11-1). COMMAND, EOS and unlisted offsets read 0 (R162);
MAPINDEX and MAPDATA read 0 during INIT BUSY (R112); MAPDATA shows the entry as it stands after its detection. -/
def State.registerWord (s : State) (offset : BitVec 8) : Word :=
  match offset.toNat with
  | 0x00 => identWord
  | 0x04 => BitVec.ofNat 32 (bitOf s.win.attnEnable + 256 * s.win.tbdiv.toNat)
  | 0x08 => BitVec.ofNat 32 (bitOf s.win.initBusy + 2 * bitOf s.win.resetBusy + 4 * bitOf s.win.writeIgnored)
  | 0x10 => s.win.result.toWord
  | 0x14 => s.win.stage0
  | 0x18 => s.win.stage1
  | 0x1C => s.win.stage2
  | 0x20 => s.win.stage3
  | 0x24 => s.reports.headField Report.word0
  | 0x28 => s.reports.headField Report.word1
  | 0x2C => s.reports.headField Report.word2
  | 0x30 => BitVec.ofNat 32 (s.reports.threshold + 256 * s.reports.holdoff)
  | 0x34 => s.reports.statWord
  | 0x38 => if s.win.initBusy then 0 else BitVec.ofNat 32 s.map.mapIndex
  | 0x3C => if s.win.initBusy then 0 else (s.map.entry s.map.mapIndex).detected.toWord
  | 0x40 => s.map.statWord
  | 0x44 => BitVec.ofNat 32 s.map.mapEn.toNat
  | 0x48 => s.map.patchAddr
  | 0x50 => BitVec.ofNat 32 s.attn.alevel.toNat
  | 0x54 => BitVec.ofNat 32 s.attn.amask.toNat
  | 0x58 => s.acknowledgeWord
  | 0x5C => if 4 ≤ s.attn.stack.length then 15 else s.acknowledgeWord
  | 0x64 => s.attn.statWord
  | n =>
    if n < 0x80 then 0
    else (s.port ⟨(n - 0x80) / 16 % 8, Nat.mod_lt _ (by decide)⟩).readWord (n % 16)

/-- What a read of the window returns: 0 while RESET is held, for a read narrower than 32 bits, and for what Table 11-1
does not list (R162, R168). -/
def State.readRegister (s : State) (offset : BitVec 8) (narrow : Bool) : Word :=
  if s.win.resetHeld || narrow then 0 else s.registerWord offset

end Sys2Proof.Machine
end

