-- ==== Sys2Proof/Safety.lean ====
section
/-! DEFINITION. What counts as a sound state, in the terms the claims use: the laws of the device that the chapters name
(law 1 the pool, law 2 the data path, law 5 the report queue, law 6 words moved, law 7 the current record, law 8 the
blocked list, law 11 the fence, law 12 the level stack) and the ranges of the tables. -/

namespace Sys2Proof.Machine

/-! ### When commands are taken -/

/-- RESET is not held (R168). -/
abbrev State.Live (s : State) : Prop := s.win.resetHeld = false

/-- RESET is not held, and INIT BUSY and RESET BUSY are clear: every defined command is taken (R166). -/
abbrev State.Ready (s : State) : Prop :=
  s.win.resetHeld = false ∧ s.win.initBusy = false ∧ s.win.resetBusy = false

/-- `NamesPort c op port`: `c` is the COMMAND write of a defined opcode `op` with a port field `port` (Table 11-2). -/
inductive NamesPort : Instr → BitVec 4 → BitVec 4 → Prop where
  | post (port : BitVec 4) : NamesPort (.post port) 1 port
  | withdraw (port : BitVec 4) (tag : BitVec 16) : NamesPort (.withdraw port tag) 2 port
  | enable (port : BitVec 4) : NamesPort (.enable port) 3 port
  | disable (port : BitVec 4) : NamesPort (.disable port) 4 port
  | pause (port : BitVec 4) : NamesPort (.pause port) 5 port
  | resumeRecord (port : BitVec 4) : NamesPort (.resumeRecord port) 6 port
  | resumeMessage (port : BitVec 4) : NamesPort (.resumeMessage port) 7 port
  | flush (port : BitVec 4) : NamesPort (.flush port) 8 port
  | portReset (port : BitVec 4) : NamesPort (.portReset port) 9 port
  | patch (port : BitVec 4) : NamesPort (.patch port) 10 port

/-- `DefinedCommand c op`: `c` is the COMMAND write of a defined opcode `op` other than SOFT RESET (Table 11-2, R166). -/
inductive DefinedCommand : Instr → BitVec 4 → Prop where
  | namesPort {c : Instr} {op port : BitVec 4} (h : NamesPort c op port) : DefinedCommand c op
  | fence : DefinedCommand .fence 11
  | pop : DefinedCommand .pop 12

/-- `ReachesPort c p`: `c` is an event or a register write of port `p`, or a port command whose port field names `p`. -/
inductive ReachesPort : Instr → PortId → Prop where
  | command {c : Instr} {op port : BitVec 4} {p : PortId} (h : NamesPort c op port) (hp : port.toNat = p.val) :
      ReachesPort c p
  | configWrite (p : PortId) (f : ConfigFields) : ReachesPort (.configWrite p f) p
  | windowWrite (p : PortId) (v : Word) : ReachesPort (.windowWrite p v) p
  | portStatusClear (p : PortId) (v : Word) : ReachesPort (.portStatusClear p v) p
  | attach (p : PortId) : ReachesPort (.attach p) p
  | detach (p : PortId) : ReachesPort (.detach p) p
  | flt (p : PortId) : ReachesPort (.flt p) p
  | cnf (p : PortId) : ReachesPort (.cnf p) p
  | rpt (p : PortId) : ReachesPort (.rpt p) p
  | rdyRise (p : PortId) : ReachesPort (.rdyRise p) p
  | rdyFall (p : PortId) : ReachesPort (.rdyFall p) p
  | inboundWordTaken (p : PortId) (w : Word) (endMark : Bool) : ReachesPort (.inboundWordTaken p w endMark) p
  | outboundWordSent (p : PortId) : ReachesPort (.outboundWordSent p) p
  | discardWord (p : PortId) (w : Word) (endMark : Bool) : ReachesPort (.discardWord p w endMark) p
  | lookup (p : PortId) : ReachesPort (.lookup p) p
  | resettingRelease (p : PortId) : ReachesPort (.resettingRelease p) p
  | stallExpiry (p : PortId) : ReachesPort (.stallExpiry p) p
  | canRelease (p : PortId) : ReachesPort (.canRelease p) p

/-! ### Records and ports -/

/-- A record as POST accepts it (R6, R7): a data record of 1 to 16384 words, a MOVE or PATCH word aligned, a MOVE inside
the 32-bit space. -/
abbrev Record.Accepted (r : Record) : Prop := r.work.imageReason = .accepted

/-- The stage of the slot at the head of the queue. -/
def Port.headStage (P : Port) : Option Stage := P.queue.head?.map Slot.stage

/-- The queue fits the port's state (R14, R21, law 7): records behind the head are QUEUED; the head is CURRENT in
RUNNING, ENDED in BLOCKED, CURRENT or QUEUED in PAUSED, QUEUED elsewhere; RESETTING holds no record. A report is
held exactly in BLOCKED. -/
abbrev Port.QueueLaw (P : Port) : Prop :=
  (∀ slot ∈ P.queue.tail, slot.stage = .queued) ∧
  (P.state = .running → P.headStage = some .current) ∧
  (P.state = .blocked → P.headStage = some .ended) ∧
  (P.state = .paused → P.headStage ≠ some .ended) ∧
  (P.state = .disabled ∨ P.state = .idle ∨ P.state = .halted →
    P.headStage ≠ some .current ∧ P.headStage ≠ some .ended) ∧
  (P.state = .resetting → P.queue = []) ∧
  (P.heldReport.isSome ↔ P.state = .blocked)

/-- The message flags (R19): at most one of MSG-OPEN and SKIP, and no progress mark without one of them. -/
abbrev Port.FlagLaw (P : Port) : Prop :=
  ¬(P.msgOpen = true ∧ P.skip = true) ∧
  (P.messageOpen = false → P.wordsPassed = false ∧ P.endPassed = false)

/-- The message at the port's tail is closed (R9). -/
abbrev Port.TailClosed (P : Port) : Prop :=
  (∃ slot ∈ P.queue.getLast?, slot.record.work.cont = false) ∨
  (P.queue = [] ∧ P.msgOpen = false ∧ P.skip = false)

/-- The message at the port's tail is open in a direction (R9). -/
abbrev Port.TailOpenIn (P : Port) (d : Direction) : Prop :=
  (∃ slot ∈ P.queue.getLast?, slot.record.work.cont = true ∧ slot.record.work.dir = some d) ∨
  (P.queue = [] ∧ (P.msgOpen = true ∨ P.skip = true) ∧ P.msgDir = d)

/-- The tail takes a record: it is closed, or open in the direction of a data record (R9, checks 9 and 10). -/
abbrev Port.TailTakes (P : Port) (w : Work) : Prop := P.TailClosed ∨ ∃ d, w.dir = some d ∧ P.TailOpenIn d

/-- The port's CONFIG permits a record (R8, checks 7 and 8). -/
abbrev Port.Permits (P : Port) (w : Work) : Prop :=
  (w.isMove = true → w.mapped = true ∨ P.config.mappedOnly = false) ∧
  (w = .patch w.address → P.config.patchPermit = true)

/-- A run of queued records fits a message that is open in a direction, or none: a record met while a message is open is a data
record of its direction, and a record with CONTINUE set leaves its message open (R9, R47). -/
def chained : Option Direction → List Slot → Bool
  | _, [] => true
  | opened, slot :: rest =>
    (match opened with
      | none => true
      | some d => slot.record.work.dir == some d) &&
    chained (if slot.record.work.cont then slot.record.work.dir else none) rest

/-- The queue keeps the shape that POST checks 9 and 10 and WITHDRAW allow (R9, R35): the records from the first that has not
ended continue the open message whole, and an ended record leaves its message open exactly if it has CONTINUE set. -/
abbrev Port.ChainLaw (P : Port) : Prop :=
  chained (if P.messageOpen then some P.msgDir else none) (P.queue.dropWhile fun slot => slot.stage == .ended) = true ∧
  ∀ slot ∈ P.queue.head?, slot.stage = .ended → P.messageOpen = slot.record.work.cont

/-- A current data record serves an open message in its own direction, with RESYNC clear (R19, R20, R22, R66). -/
abbrev Port.ServedLaw (P : Port) : Prop :=
  match P.currentData with
  | none => P.phase = .none ∧ P.latch = none ∧ P.stallTimer = none ∧ P.lookupRequest = false ∧ P.cut = none ∧
      P.inHand = none ∧ P.abortPending = false
  | some w => P.phase ≠ .none ∧ P.msgOpen = true ∧ P.skip = false ∧ w.dir = some P.msgDir ∧ P.dirLine = P.msgDir ∧
      P.resync = false ∧ P.stallTimer.isSome ∧ (P.state = .paused → P.phase = .waiting) ∧
      (P.abortPending = true → P.burstOpen = true) ∧
      (P.lookupRequest = true → P.phase = .transferring ∧ w.isMove = true)

/-- Words moved, position and burst of a current data record (R84, R88, R99, law 6): no burst passes the end of its
record, and words moved never exceeds LENGTH. -/
abbrev Port.ProgressLaw (P : Port) : Prop :=
  match P.currentData with
  | none => True
  | some w =>
    P.moved ≤ w.length ∧ P.position ≤ w.length ∧ P.repeats ≤ P.config.repeatLimit.toNat ∧
    (w.dir = some .inbound → P.position = P.moved) ∧
    (P.phase = .waiting → P.position = P.moved ∧ P.position < w.length) ∧
    (P.burstOpen = true →
      P.position = P.burstStart + P.exchanged ∧ P.burstStart + P.burstLength ≤ w.length ∧
      P.exchanged ≤ P.burstLength ∧ (w.dir = some .outbound → P.moved = P.burstStart)) ∧
    (P.phase = .transferring → P.exchanged < P.burstLength) ∧
    (P.phase = .confirming → w.dir = some .outbound ∧ 0 < P.exchanged)

/-- The ranges of the port's registers and counts (Tables 2-1 and 2-6, R44, R83). -/
abbrev Port.RangeLaw (P : Port) : Prop :=
  1 ≤ P.config.burstQuota ∧ P.config.burstQuota ≤ 64 ∧ 1 ≤ P.config.queueQuota ∧ P.config.queueQuota ≤ 64 ∧
  P.window.inRange = true ∧ P.discarded ≤ 65535

/-! ### Ports that take up a head, and ports that an error halts -/

/-- A port whose head `r` has become current as a data record of direction `d`, SKIP clear (R19, R20, R22, R23, R66, R80). -/
def Port.serving (P : Port) (r : Record) (rest : List Slot) (d : Direction) : Port :=
  { P with
    queue := ⟨r, .current⟩ :: rest, state := .running, phase := .waiting, msgOpen := true
    msgDir := if P.msgOpen then P.msgDir else d
    wordsPassed := P.msgOpen && P.wordsPassed, endPassed := P.msgOpen && P.endPassed
    moved := 0, position := 0, burstStart := 0, repeats := 0, burstLength := 0, exchanged := 0
    endTaken := false, inHand := none, lookupRequest := false, cut := none, dirLine := d, stallTimer := some 0 }

/-- A port whose head `r` has become current as a PATCH record (R20, R22). -/
def Port.claiming (P : Port) (r : Record) (rest : List Slot) : Port :=
  { P with
    queue := ⟨r, .current⟩ :: rest, state := .running, phase := .none
    moved := 0, position := 0, burstStart := 0, repeats := 0, burstLength := 0, exchanged := 0
    endTaken := false, inHand := none, lookupRequest := false, cut := none, stallTimer := none }

/-- The patch in flight right after its claim was taken (R129): the format port's window copied, phase REQUESTING, no word
read, staging empty. -/
def Flight.taken (origin : Origin) (address : Word) (formatPort : PortId) (w : PortWindow) : Flight :=
  ⟨origin, true, address, formatPort, w.base, w.span, false, 0, 0, false, none, []⟩

/-- An end with this error status leaves RESYNC set: OVERRUN, and a status that cuts an inbound message whose END has not
passed, but DETACHED (R50, R53, R54). -/
def Port.errorResyncs (P : Port) (st : Status) : Bool :=
  st == .overrun || (st.cutsMessage && st != .detached && P.msgDir == .inbound && !P.endPassed)

/-- An end with this error status asserts CAN: it cuts an outbound message of which words but no END have passed (R53). -/
def Port.errorCancels (P : Port) (st : Status) : Bool :=
  st.cutsMessage && P.msgDir == .outbound && P.wordsPassed && !P.endPassed

/-- A port whose current data record ends with an error status (R49, R53, R59, R61): the record gone, HALTED with HALT
EVENT, its message repaired, and closed by a record with CONTINUE clear; resync discard turns DIR to INBOUND. -/
def Port.haltedAt (P : Port) (w : Work) (st : Status) : Port :=
  let resync := P.resync || P.errorResyncs st
  { P with
    queue := P.queue.tail, heldReport := none, state := .halted, haltEvent := true
    pausePending := false, abortPending := false
    phase := .none, inHand := none, lookupRequest := false, cut := none, stallTimer := none, latch := none
    resync := resync
    can := if P.errorCancels st then some 0 else P.can
    msgOpen := P.msgOpen && w.cont, skip := P.skip && w.cont
    wordsPassed := P.wordsPassed && w.cont, endPassed := P.endPassed && w.cont
    dirLine := if resync && P.attached then .inbound else P.dirLine }

/-- The report of an error end of a data record (Table 3-4). -/
def Port.errorReport (P : Port) (p : PortId) (r : Record) (st : Status) (d : Detail) : Report :=
  .record p st r.tag P.moved (r.work.dir == some .inbound && P.endTaken)
    (if r.work.dir = some .outbound then P.repeats else 0) r.urgent d

/-- The data path as a port's release of it leaves it: given back if the port holds it (R97, R108). -/
abbrev State.GivenBackBy (s t : State) (p : PortId) : Prop :=
  if s.arbiter.holder = .port p then
    t.arbiter = { s.arbiter with holder := .none } ∧ t.access = none ∧ t.win = { s.win with resetBusy := false }
  else t.arbiter = s.arbiter ∧ t.access = s.access ∧ t.win = s.win

/-- A port whose current data record `r` has ended with an error status and finds no free report entry (R59, R62): the slot
ENDED, the port BLOCKED with its report held; HALT EVENT and PAUSE-PENDING wait for the admission. -/
def Port.blockedAt (P : Port) (r : Record) (st : Status) (rep : Report) : Port :=
  { P.haltedAt r.work st with
    queue := ⟨r, .ended⟩ :: P.queue.tail, heldReport := some rep, state := .blocked
    haltEvent := P.haltEvent, pausePending := P.pausePending, dirLine := P.dirLine }

/-- From `s`, port `p` with context `P` at the end of its current data record `r` by an error status (R59, R61, R62): with a
free report entry the report is posted and the port HALTED; with none the port is BLOCKED and joins the tail of the
blocked list. The data path is given back, the latch invalidated, every other port as it was. -/
abbrev State.FailsAt (s t : State) (p : PortId) (P : Port) (r : Record) (st : Status) (d : Detail) : Prop :=
  (s.reports.entries.length < 32 →
    t.port p = P.haltedAt r.work st ∧ t.reports = s.reports.post (P.errorReport p r st d)) ∧
  (32 ≤ s.reports.entries.length →
    t.port p = P.blockedAt r st (P.errorReport p r st d) ∧
      t.reports = { s.reports with blocked := s.reports.blocked ++ [p] }) ∧
  t.map = s.map.leaveFence p ∧ (∀ q, q ≠ p → t.port q = s.port q) ∧ s.GivenBackBy t p ∧
  t.attn = s.attn ∧ t.time = s.time ∧ t.pending = s.pending

/-! ### Retirements that complete, and bursts that are over -/

/-- A context whose current record is gone from its queue, with its burst, its latch, its stall timer and its pending abort
(R40, R59, R61, R120). -/
def Port.recordGone (P : Port) : Port :=
  { P with
    queue := P.queue.tail, heldReport := none, phase := .none, inHand := none, lookupRequest := false, cut := none
    stallTimer := none, abortPending := false, latch := none }

/-- A port with a context `Q` that has just started the burst of its waiting FILL or DRAIN (R85, R88). -/
def Port.bursting (Q : Port) (w : Work) : Port :=
  { Q with
    phase := .transferring, burstStart := Q.position, exchanged := 0, answered := false
    burstLength := min Q.config.burstQuota (w.length - Q.position) }

/-- `Q.TakesHead Q'`: an IDLE port with context `Q`, whose head is examined, comes to the context `Q'` (R22, R23, R61, R66,
R82, R85), the head being a data record or none. With none left, or one that may not become current, the port stays
IDLE. One that may becomes current, and the burst of a FILL or DRAIN with RDY present starts. While SKIP is set a record
that asks for no report retires SKIPPED, SKIP ending with CONTINUE clear, and the next head is examined. -/
inductive Port.TakesHead : Port → Port → Prop where
  | empty {Q : Port} (hq : Q.queue = []) :
      TakesHead Q { Q with dirLine := if Q.resync && Q.attached then .inbound else Q.dirLine }
  | waits {Q : Port} {r : Record} {rest : List Slot} (hq : Q.queue = ⟨r, .queued⟩ :: rest) (hd : r.work.dir ≠ none)
      (h : Q.attached = false ∨ Q.resync = true) :
      TakesHead Q { Q with dirLine := if Q.resync && Q.attached then .inbound else Q.dirLine }
  | serves {Q : Port} {r : Record} {rest : List Slot} {d : Direction} (hq : Q.queue = ⟨r, .queued⟩ :: rest)
      (hd : r.work.dir = some d) (ha : Q.attached = true) (hr : Q.resync = false) (hs : Q.skip = false)
      (h : r.work.isMove = true ∨ Q.rdyLine = false) : TakesHead Q (Q.serving r rest d)
  | bursts {Q : Port} {r : Record} {rest : List Slot} {d : Direction} (hq : Q.queue = ⟨r, .queued⟩ :: rest)
      (hd : r.work.dir = some d) (ha : Q.attached = true) (hr : Q.resync = false) (hs : Q.skip = false)
      (hp : Q.pausePending = false) (hab : Q.abortPending = false) (hm : r.work.isMove = false)
      (hy : Q.rdyLine = true) : TakesHead Q ((Q.serving r rest d).bursting r.work)
  | skips {Q Q' : Port} {r : Record} {rest : List Slot} (hq : Q.queue = ⟨r, .queued⟩ :: rest) (hd : r.work.dir ≠ none)
      (ha : Q.attached = true) (hr : Q.resync = false) (hs : Q.skip = true) (hm : Q.msgOpen = false)
      (hp : Q.pausePending = false) (hn : r.reportAlways = false)
      (h : TakesHead { Q.recordGone with
        moved := 0, position := 0, burstStart := 0, repeats := 0, burstLength := 0, exchanged := 0, endTaken := false
        skip := r.work.cont, wordsPassed := Q.wordsPassed && r.work.cont
        endPassed := Q.endPassed && r.work.cont } Q') : TakesHead Q Q'

/-- `s.Retires p Q r rep out`: `out` is how the retirement of record `r` with a normal status and the report `rep` leaves the
part `s`, the end of the record having given port `p` the context `Q`, the record gone from its queue (R60 to R62). A
pending pause brings the port to PAUSED, a held record's end leaves it there, and otherwise the next head is examined.
With no free entry for a report that the record asks for the port is BLOCKED, the slot ENDED. A held record ends so only
by WITHDRAW, and then blocks with PAUSE-PENDING set (R36). -/
abbrev State.Retires (s : State) (p : PortId) (Q : Port) (r : Record) (rep : Report)
    (out : Host.Outcome State Fault Refusal) : Prop :=
  let completes (Q' : Port) : Prop :=
    out = .next { s.setPort p Q' with reports := if r.reportAlways then s.reports.post rep else s.reports }
  (r.reportAlways = false ∨ s.reports.entries.length < 32 →
    (Q.pausePending = true → completes { Q with state := .paused, pausePending := false, pauseReached := true }) ∧
    (Q.pausePending = false → Q.state = .paused → completes Q) ∧
    (Q.pausePending = false → Q.state ≠ .paused → ∀ Q', Port.TakesHead { Q with state := .idle } Q' → completes Q')) ∧
  (r.reportAlways = true → 32 ≤ s.reports.entries.length →
    out = .next { s.setPort p { Q with
        queue := ⟨r, .ended⟩ :: Q.queue, state := .blocked, heldReport := some rep
        pausePending := Q.pausePending || Q.state == .paused } with
      reports := { s.reports with blocked := s.reports.blocked ++ [p] } })

/-- A port whose data record `w` retires ABORTED (R53, R55, R59): its message repaired on the lines, SKIP set in place of
MSG-OPEN by a record with CONTINUE set, the message closed by one with CONTINUE clear. -/
def Port.abortedAt (Q : Port) (w : Work) : Port :=
  { Q.recordGone with
    resync := Q.resync || (w.dir == some .inbound && !Q.endPassed)
    can := if w.dir = some .outbound ∧ Q.wordsPassed = true ∧ Q.endPassed = false then some 0 else Q.can
    msgOpen := false, skip := w.cont, wordsPassed := Q.wordsPassed && w.cont, endPassed := Q.endPassed && w.cont }

/-- The report of a record that retires ABORTED (Table 3-4). -/
def Port.abortReport (Q : Port) (p : PortId) (r : Record) : Report :=
  .record p .aborted r.tag Q.moved (r.work.dir == some .inbound && Q.endTaken)
    (if r.work.dir = some .outbound then Q.repeats else 0) r.urgent .absent

/-- `s.BurstOver p Q r out`: `out` is how a burst of record `r` that is over without ending its record leaves the part `s`,
port `p` having come to the context `Q` in WAITING (R40, R85, R96): a pending abort ends the record ABORTED first, a
pending pause holds it, and otherwise it waits for its next burst, which a FILL or DRAIN with RDY present starts in the same
step; that a DRAIN does so is the model's choice (log 33). -/
abbrev State.BurstOver (s : State) (p : PortId) (Q : Port) (r : Record)
    (out : Host.Outcome State Fault Refusal) : Prop :=
  (Q.abortPending = true →
    { s with map := s.map.leaveFence p }.Retires p (Q.abortedAt r.work) r (Q.abortReport p r) out) ∧
  (Q.abortPending = false → Q.pausePending = true →
    out = .next (s.setPort p { Q with state := .paused, pausePending := false, pauseReached := true })) ∧
  (Q.abortPending = false → Q.pausePending = false → r.work.isMove = true ∨ Q.rdyLine = false →
    out = .next (s.setPort p Q)) ∧
  (Q.abortPending = false → Q.pausePending = false → r.work.isMove = false → Q.rdyLine = true →
    out = .next (s.setPort p (Q.bursting r.work)))

/-- A part whose port `p` has given the data path back if it held it (R97, R108). -/
def State.givenBack (s : State) (p : PortId) : State :=
  if s.arbiter.holder = .port p then
    { s with
      arbiter := { s.arbiter with holder := .none }, access := none, win := { s.win with resetBusy := false } }
  else s

/-- `s.NextClaim engine waiting`: the engine and the waiting claims that the end of a patch leaves (R132): FREE with no claim
waiting, else with the claim of the lowest-numbered waiting port, which leaves the set. -/
abbrev State.NextClaim (s : State) (engine : Option Flight) (waiting : PortSet) : Prop :=
  (s.map.waiting.isEmpty = true ∧ engine = none ∧ waiting = s.map.waiting) ∨
  ∃ (q : PortId) (a : Word), s.map.waiting.mem q = true ∧ (∀ q', q' < q → s.map.waiting.mem q' = false) ∧
    (s.port q).currentPatch = some a ∧ engine = some (.taken (.port q) a q (s.port q).window) ∧
    waiting = s.map.waiting.erase q

/-! ### The report queue and the blocked list -/

/-- The report queue (Table 9-1, R141, R145, R149 to R151, law 5): at most 32 entries, announced ones ahead of
unannounced ones; the holdoff timer runs exactly while an entry is unannounced, and the unannounced count is below
THRESHOLD. -/
abbrev ReportQueue.Law (q : ReportQueue) : Prop :=
  q.entries.length ≤ 32 ∧ 1 ≤ q.threshold ∧ q.threshold ≤ 32 ∧ q.holdoff ≤ 255 ∧
  q.entries.Pairwise (fun a b => a.announced = false → b.announced = false) ∧
  (q.holdoffTimer.isSome ↔ 0 < q.unannounced) ∧ q.unannounced < q.threshold ∧
  (∀ n ∈ q.holdoffTimer, n ≤ q.holdoff)

/-- The blocked list (R143, law 8): each port at most once, a port exactly while it is BLOCKED, and the queue full while
the list is not empty. -/
abbrev State.BlockedLaw (s : State) : Prop :=
  s.reports.blocked.Nodup ∧
  (∀ p : PortId, p ∈ s.reports.blocked ↔ (s.port p).state = .blocked) ∧
  (s.reports.blocked ≠ [] → s.reports.entries.length = 32)

/-! ### The map unit -/

/-- The table keeps its canonical form, and every index the map unit holds names an entry (R111, R121, R134). -/
abbrev MapUnit.TableLaw (m : MapUnit) : Prop :=
  m.wf ∧ m.mapIndex < 1024 ∧ m.corrections ≤ 255 ∧
  (∀ f ∈ m.engine, (∀ i ∈ f.index, i < 1024) ∧ ∀ pair ∈ f.staging, pair.1 < 1024)

/-- The fence (R138, R139, law 11): a fence is pending exactly while its set holds a port, and every port of the set holds
a valid latch. -/
abbrev State.FenceLaw (s : State) : Prop :=
  (s.map.fencePending = true ↔ s.map.fenceSet.isEmpty = false) ∧
  (∀ p : PortId, s.map.fenceSet.mem p = true → (s.port p).latch.isSome = true)

/-! ### The data path and the arbiter -/

/-- A port's MOVE burst is in its transfer phase. -/
def Port.transfersMove (P : Port) : Bool :=
  P.phase == .transferring && (match P.currentData with | some w => w.isMove | none => false)

/-- The holder of the data path (R20, R97, R98, law 2): a port holds it exactly in the transfer phase of a MOVE burst or
in RESETTING; an access is under way for a holder alone; a fetch is under way exactly in phase FETCHING. -/
abbrev State.HolderLaw (s : State) : Prop :=
  (∀ p : PortId, s.arbiter.holder = .port p ↔
    ((s.port p).transfersMove = true ∨ (s.port p).state = .resetting)) ∧
  (s.access.isSome = true → s.arbiter.holder ≠ .none) ∧
  (s.arbiter.holder = .patchFetch → s.access.isSome = true) ∧
  (∀ f ∈ s.map.engine, f.fetching = true → s.arbiter.holder = .patchFetch) ∧
  s.arbiter.urgentRun ≤ 4

/-! ### The attention unit -/

/-- The level stack (R155, law 12): each level outranks the one it interrupted, down to BASE. -/
abbrev Attention.Law (a : Attention) : Prop :=
  (a.csl :: a.stack).Pairwise (· < ·) ∧ (a.csl :: a.stack).getLast? = some 4

/-! ### The whole part -/

/-- The pool (R14, law 1). -/
abbrev State.PoolLaw (s : State) : Prop := s.occupied ≤ 64

/-- The laws of one port: its queue and state, its message and the chain of its records, its current record and its
registers; every record it holds is one that POST accepts. -/
abbrev Port.Law (P : Port) : Prop :=
  P.QueueLaw ∧ P.FlagLaw ∧ P.ChainLaw ∧ P.ServedLaw ∧ P.ProgressLaw ∧ P.RangeLaw ∧ ∀ slot ∈ P.queue, slot.record.Accepted

/-- A sound state: every law of the device that one state can show. -/
abbrev State.Sound (s : State) : Prop :=
  (∀ p : PortId, (s.port p).Law) ∧ s.PoolLaw ∧ s.HolderLaw ∧ s.reports.Law ∧ s.BlockedLaw ∧ s.map.TableLaw ∧ s.FenceLaw ∧
  s.attn.Law

end Sys2Proof.Machine
end

