-- ==== Sys2Proof/WellFormed.lean ====
section
/-! DEFINITION. The commands that a row of the table can be: a BAD_COMMAND carries an undefined opcode (Table 11-2),
and a 32-bit REGISTER_WRITE goes to a register that has no row of its own (Table 11-1). -/

namespace Sys2Proof

/-- The undefined COMMAND opcodes of Table 11-2. -/
def undefinedOpcode (op : BitVec 4) : Bool := op.toNat == 0 || op.toNat == 13 || op.toNat == 14

/-- A write that is a REGISTER_WRITE: narrow, or to an offset whose 32-bit write is no row of its own. -/
def registerWriteTarget (offset : BitVec 8) (narrow : Bool) (v : Word) : Bool :=
  narrow || (writeRow offset v).isNone

/-- Well-formed commands. Every other check is made by the types: a port is 0 to 7, an entry index 0 to 1023. -/
def Instr.wellFormed : Instr → Bool
  | .badCommand op => undefinedOpcode op
  | .registerWrite offset narrow v => registerWriteTarget offset narrow v
  | _ => true

end Sys2Proof
end

