-- ==== Sys2Proof/Certificates/Slice0/Obligations.lean ====
section
/-! DEFINITION. The statements: what each command does, what the part keeps through every step, what reset leaves. -/

open Sys2Proof Sys2Proof.Machine

/-! ### Steps, reset and the gates of the window -/

/-- A step runs the command at the front of the queue, with the rest of the queue waiting. -/
def Obligations.StepRunsFrontCommand : Prop :=
  ∀ (c : Instr) (rest : List Instr) (s : State), s.pending = c :: rest → step s = exec c { s with pending := rest }

/-- A step with no command waiting (the model's choice, logs 7 and 8): the expiries that are due enter the queue; with none
due a CLK cycle is counted, and the cycle that ends a 1 µs step takes TBDIV anew, counts the CAN holds and brings the
CAN releases and, at every 64th step, the time unit step (R79, R164). -/
def Obligations.StepWithoutCommand : Prop :=
  ∀ s : State, s.pending = [] → s.Live →
    (s.dueExpiries ≠ [] → step s = .next { s with pending := s.dueExpiries }) ∧
    (s.dueExpiries = [] → s.time.clkCount + 1 < s.time.stepLength →
      step s = .next { s with time := { s.time with clkCount := s.time.clkCount + 1 } }) ∧
    (s.dueExpiries = [] → s.time.stepLength ≤ s.time.clkCount + 1 →
      ∃ t, step s = .next t ∧
        t.time = ⟨0, s.win.tbdiv.toNat, if s.time.stepCount + 1 = 64 then 0 else s.time.stepCount + 1⟩ ∧
        (∀ p, t.port p = { s.port p with can := (s.port p).can.map fun k => min (k + 1) 2 }) ∧
        (.timeUnitStep ∈ t.pending ↔ s.time.stepCount + 1 = 64) ∧
        (∀ p, .canRelease p ∈ t.pending ↔ ∃ k, (s.port p).can = some k ∧ 1 ≤ k) ∧
        t.win = s.win ∧ t.arbiter = s.arbiter ∧ t.access = s.access ∧ t.map = s.map ∧ t.reports = s.reports ∧
        t.attn = s.attn)

/-- Power-on values that the spec gives: the eight ports (Tables 2-1 and 2-6, R65), the other blocks (Tables 6-1, 7-1, 8-2,
8-4, 9-1, 10-2, 11-5), and the time base, its counts at 0 and its first 1 µs step TBDIV's 33 cycles long (R164). -/
def Obligations.ResetValues : Prop :=
  (∀ p : PortId,
    let P := State.reset.port p
    P.state = .disabled ∧ P.queue = [] ∧ P.msgOpen = false ∧ P.skip = false ∧ P.msgDir = .inbound ∧
    P.wordsPassed = false ∧ P.endPassed = false ∧ P.resync = false ∧ P.pausePending = false ∧ P.abortPending = false ∧
    P.phase = .none ∧ P.burstStart = 0 ∧ P.repeats = 0 ∧ P.moved = 0 ∧ P.latch = none ∧ P.stallTimer = none ∧
    P.discarded = 0 ∧ P.haltEvent = false ∧ P.attachChange = false ∧ P.pauseReached = false ∧ P.window = ⟨0, 0⟩ ∧
    P.config = ⟨.normal, 16, 3, 0, 8, true, false, false, false, false⟩ ∧ P.dirLine = .inbound ∧ P.can = none) ∧
  let s := State.reset
  s.arbiter = ⟨.none, 7, 7, 0⟩ ∧ (∀ i : Fin 1024, s.map.entry i.val = ⟨⟨0, false, false, false⟩, false, .none⟩) ∧
  s.map.engine = none ∧ s.map.lastOutcome = .none ∧ s.map.fencePending = false ∧ s.map.fenceSet.isEmpty = true ∧
  s.map.waiting.isEmpty = true ∧ s.map.patchEnd = false ∧ s.map.fenceEnd = false ∧ s.map.correctedFlag = false ∧
  s.map.poisonedFlag = false ∧ s.map.corrections = 0 ∧ s.map.mapEn = 0 ∧ s.map.mapIndex = 0 ∧ s.map.patchAddr = 0 ∧
  s.reports = ⟨[], [], none, false, 1, 0⟩ ∧ (∀ c : Fin 10, s.attn.level c.val = 3) ∧ s.attn.amask = 0 ∧
  s.attn.csl = 4 ∧ s.attn.stack = [] ∧ s.attn.overflow = false ∧ s.attn.underflow = false ∧
  s.win.attnEnable = false ∧ s.win.tbdiv = 33 ∧ s.win.initBusy = true ∧ s.win.resetBusy = false ∧
  s.win.writeIgnored = false ∧ s.win.result = ⟨0, .accepted, 0⟩ ∧ s.win.stage0 = 0 ∧ s.win.stage1 = 0 ∧
  s.win.stage2 = 0 ∧ s.win.stage3 = 0 ∧ s.time = ⟨0, 33, 0⟩

/-- The state right after reset is sound. -/
def Obligations.SoundAtReset : Prop := State.reset.Sound

/-- The gates of the window, in their order: an undefined opcode is refused BAD COMMAND, busy or not; while INIT BUSY or RESET
BUSY is set every defined command but SOFT RESET is refused BUSY; a port field of 8 or more is refused BAD PORT by every
command that names a port. The value is 0 and RESULT alone changes (R5, R24, R112, R130, R166). -/
def Obligations.WindowGates : Prop :=
  ∀ s : State, s.Live →
    let refused (c : Instr) (op : BitVec 4) (why : Reason) : Prop :=
      exec c s = .next { s with win := { s.win with result := ⟨op, why, 0⟩ } }
    (∀ op : BitVec 4, Instr.wellFormed (.badCommand op) = true → refused (.badCommand op) op .badCommand) ∧
    (∀ (c : Instr) (op : BitVec 4), DefinedCommand c op → s.win.initBusy = true ∨ s.win.resetBusy = true →
      refused c op .busy) ∧
    (∀ (c : Instr) (op port : BitVec 4), NamesPort c op port → 8 ≤ port.toNat → s.Ready → refused c op .badPort)

/-- While RESET is held, no command but a RESET event takes effect: only the levels of ATT and RDY and the word on the
host bus can change (R168; the input levels are log 10's). -/
def Obligations.HeldResetTakesNothing : Prop :=
  ∀ (c : Instr) (s : State), s.win.resetHeld = true → c ≠ .powerOnReset →
    ∃ t, exec c s = .next t ∧
      (∀ p, t.port p = { s.port p with attLine := (t.port p).attLine, rdyLine := (t.port p).rdyLine }) ∧
      t.win = { s.win with hostRead := t.win.hostRead } ∧ (t.win.hostRead = s.win.hostRead ∨ t.win.hostRead = 0) ∧
      t.arbiter = s.arbiter ∧ t.access = s.access ∧ t.map = s.map ∧ t.reports = s.reports ∧ t.attn = s.attn ∧
      t.time = s.time ∧ t.pending = s.pending

/-- RESET_ASSERTED holds RESET and changes nothing else (log 10); POWER_ON_RESET leaves every block at its power-on values,
ATTACHED at the level of ATT without an attach event, the input levels kept (R43, R46, R110, R152, R161, R168). The values of
the word on the host bus, of the last exchange on the lines and of the burst items there are the model's (logs 1, 2, 27). -/
def Obligations.ResetLineTaken : Prop :=
  ∀ s : State, exec .resetAsserted s = .next { s with win := { s.win with resetHeld := true } } ∧
    ∃ t, exec .powerOnReset s = .next t ∧
    (∀ p, t.port p = { State.reset.port p with
      attached := (s.port p).attLine, attLine := (s.port p).attLine, rdyLine := (s.port p).rdyLine }) ∧
    t.win = State.reset.win ∧ t.arbiter = State.reset.arbiter ∧ t.access = none ∧ t.map = State.reset.map ∧
    t.reports = State.reset.reports ∧ t.attn = State.reset.attn ∧ t.time = State.reset.time ∧ t.pending = s.pending

/-- SOFT RESET is refused BUSY while INIT BUSY is set; otherwise every block is reset at once, the map's table and its
correction count kept. A holder of the data path keeps it, RESET BUSY set and value 1, but for a patch fetch without a
read under way (R46, R109, R113, R137, R140, R152, R161, R166, R167). That CAN, where no broken outbound message asserts it,
is deasserted at once also inside the hold of an earlier CAN event is the model's choice, log 35, and so are the values of
the word on the host bus, of the last exchange on the lines and of the burst items (logs 1, 2, 27). -/
def Obligations.SoftResetTaken : Prop :=
  ∀ s : State, s.Live →
    (s.win.initBusy = true → exec .softReset s = .next { s with win := { s.win with result := ⟨15, .busy, 0⟩ } }) ∧
    (s.win.initBusy = false →
      let held := s.arbiter.holder ≠ .none ∧ (s.arbiter.holder = .patchFetch → s.access.isSome = true)
      ∃ t, exec .softReset s = .next t ∧
        (∀ p, t.port p = { State.reset.port p with
          state := if s.arbiter.holder = .port p then .resetting else .disabled
          attached := (s.port p).attLine, attLine := (s.port p).attLine, rdyLine := (s.port p).rdyLine
          can := if ((s.port p).msgOpen = true ∨ (s.port p).skip = true) ∧ (s.port p).msgDir = .outbound ∧
              (s.port p).wordsPassed = true ∧ (s.port p).endPassed = false then some 0 else none }) ∧
        t.map = { State.reset.map with
          entries := s.map.entries, initNext := s.map.initNext, corrections := s.map.corrections } ∧
        t.reports = State.reset.reports ∧ t.attn = State.reset.attn ∧ t.time = State.reset.time ∧
        t.pending = s.pending ∧
        (held → t.arbiter = ⟨s.arbiter.holder, 7, 7, 0⟩ ∧ t.access = s.access ∧
          t.win = { State.reset.win with
            initBusy := false, resetBusy := true, result := ⟨15, .accepted, 1⟩, hostRead := s.win.hostRead }) ∧
        (¬held → t.arbiter = ⟨.none, 7, 7, 0⟩ ∧ t.access = none ∧
          t.win = { State.reset.win with
            initBusy := false, resetBusy := false, result := ⟨15, .accepted, 0⟩, hostRead := s.win.hostRead }))

/-! ### POST -/

/-- The fields of a record that POST keeps, by the KIND of the staging image (Table 1-2, Table 11-6, R1). -/
def Obligations.StagedRecordKeepsFields : Prop :=
  ∀ w : HostWindow,
    let kind := w.stage0.toNat % 8
    let length := w.stage1.toNat % 65536
    let always := w.stage0.getLsbD 7
    let urgent := w.stage0.getLsbD 8
    let cont := w.stage0.getLsbD 5
    let tag : BitVec 16 := BitVec.ofNat 16 (w.stage0.toNat / 65536)
    (kind = 1 → w.stage0.getLsbD 3 = false → stagedRecord w =
      some ⟨.move .inbound length w.stage2 (w.stage0.getLsbD 4) cont (w.stage0.getLsbD 6), always, urgent, tag⟩) ∧
    (kind = 1 → w.stage0.getLsbD 3 = true → stagedRecord w =
      some ⟨.move .outbound length w.stage2 (w.stage0.getLsbD 4) cont false, always, urgent, tag⟩) ∧
    (kind = 2 → stagedRecord w = some ⟨.fill length w.stage3 cont, always, urgent, tag⟩) ∧
    (kind = 3 → stagedRecord w = some ⟨.drain length cont (w.stage0.getLsbD 6), always, urgent, tag⟩) ∧
    (kind = 4 → stagedRecord w = some ⟨.mark, true, urgent, tag⟩) ∧
    (kind = 5 → stagedRecord w = some ⟨.patch w.stage2, always, urgent, tag⟩) ∧
    (kind = 0 ∨ 6 ≤ kind → stagedRecord w = none)

/-- POST checks 2 to 6, in order, with the raw fields of the staging image: the value is the queue length (R5, R6, R7). -/
def Obligations.PostImageRefused : Prop :=
  ∀ (port : BitVec 4) (p : PortId) (s : State), port.toNat = p.val → s.Ready →
    let kind := s.win.stage0.toNat % 8
    let length := s.win.stage1.toNat % 65536
    let address := s.win.stage2.toNat
    let lengthFits := 1 ≤ length ∧ length ≤ 16384
    let refusedWith (why : Reason) : Prop :=
      exec (.post port) s = .next { s with win := { s.win with result := ⟨1, why, (s.port p).queue.length⟩ } }
    ((s.port p).state = .resetting → refusedWith .busy) ∧
    ((s.port p).state ≠ .resetting →
      (kind = 0 ∨ 6 ≤ kind → refusedWith .badKind) ∧
      (1 ≤ kind → kind ≤ 3 → ¬lengthFits → refusedWith .badLength) ∧
      (kind = 1 → lengthFits → address % 4 ≠ 0 → refusedWith .misaligned) ∧
      (kind = 5 → address % 4 ≠ 0 → refusedWith .misaligned) ∧
      (kind = 1 → lengthFits → address % 4 = 0 → 4294967296 < address + 4 * length → refusedWith .badLength))

/-- POST checks 7 to 11, in order, for an image that passed the earlier ones (R8, R9, R10). -/
def Obligations.PostRefusedByPort : Prop :=
  ∀ (port : BitVec 4) (p : PortId) (s : State) (r : Record), port.toNat = p.val → s.Ready →
    (s.port p).state ≠ .resetting → stagedRecord s.win = some r → r.Accepted →
    let P := s.port p
    let refusedWith (why : Reason) : Prop :=
      exec (.post port) s = .next { s with win := { s.win with result := ⟨1, why, P.queue.length⟩ } }
    (r.work.isMove = true → r.work.mapped = false → P.config.mappedOnly = true → refusedWith .unmappedDenied) ∧
    (r.work = .patch r.work.address → P.config.patchPermit = false → refusedWith .patchDenied) ∧
    (P.Permits r.work →
      (∀ d, r.work.dir = none → P.TailOpenIn d → refusedWith .openMessage) ∧
      (∀ d d', r.work.dir = some d' → P.TailOpenIn d → d' ≠ d → refusedWith .directionMismatch) ∧
      (P.TailTakes r.work → P.config.queueQuota ≤ P.queue.length → refusedWith .quota))

/-- POST check 12: with every slot of the pool occupied, a POST that passes the earlier checks is refused POOL EMPTY, and
every queue is as it was (R11). -/
def Obligations.PostRefusedPoolEmpty : Prop :=
  ∀ (port : BitVec 4) (p : PortId) (s : State) (r : Record), port.toNat = p.val → s.Ready →
    (s.port p).state ≠ .resetting → stagedRecord s.win = some r → r.Accepted → (s.port p).Permits r.work →
    (s.port p).TailTakes r.work → (s.port p).queue.length < (s.port p).config.queueQuota → s.occupied = 64 →
    exec (.post port) s = .next { s with win := { s.win with result := ⟨1, .poolEmpty, (s.port p).queue.length⟩ } }

/-- POST accepted at a port that is not IDLE: the record joins the tail in stage QUEUED, RESULT shows the new queue length,
and nothing else changes (R12). -/
def Obligations.PostAccepted : Prop :=
  ∀ (port : BitVec 4) (p : PortId) (s : State) (r : Record), port.toNat = p.val → s.Ready →
    (s.port p).state ≠ .resetting → (s.port p).state ≠ .idle → stagedRecord s.win = some r → r.Accepted →
    (s.port p).Permits r.work → (s.port p).TailTakes r.work →
    (s.port p).queue.length < (s.port p).config.queueQuota → s.occupied < 64 →
    exec (.post port) s = .next
      { s.setPort p { s.port p with queue := (s.port p).queue ++ [⟨r, .queued⟩] } with
        win := { s.win with result := ⟨1, .accepted, (s.port p).queue.length + 1⟩ } }

/-- POST of a record accepted at an IDLE port: it joins the tail, and the head of the queue, the record itself where the queue
was empty, is examined (R12, R22). A data head waits while ATTACHED is clear or RESYNC is set; otherwise it becomes current,
begins or continues the message and waits for its first burst, which a FILL or DRAIN with RDY present starts at once (R19,
R20, R66, R80, R85). A PATCH record in an empty queue becomes current, and its claim is taken by a FREE engine or waits (R23,
R131). -/
def Obligations.PostToIdlePort : Prop :=
  ∀ (port : BitVec 4) (p : PortId) (s : State) (r : Record), port.toNat = p.val → s.Ready →
    (s.port p).state = .idle → stagedRecord s.win = some r → r.Accepted →
    (s.port p).Permits r.work → (s.port p).TailTakes r.work →
    (s.port p).queue.length < (s.port p).config.queueQuota → s.occupied < 64 →
    let P := s.port p
    let answers (Q : Port) (map : MapUnit) : Prop :=
      exec (.post port) s = .next
        { s.setPort p Q with win := { s.win with result := ⟨1, .accepted, P.queue.length + 1⟩ }, map := map }
    (P.skip = false ∨ s.map.fenceSet.mem p = false →
      ∀ Q, Port.TakesHead { P with queue := P.queue ++ [⟨r, .queued⟩] } Q → answers Q s.map) ∧
    (∀ a, P.queue = [] → r.work = .patch a → P.resync = false →
      (s.map.engine = none →
        answers (P.claiming r []) { s.map with engine := some (.taken (.port p) a p P.window) }) ∧
      (s.map.engine ≠ none →
        answers (P.claiming r []) { s.map with waiting := s.map.waiting.insert p }))

/-- POST of a record that retires as it becomes current at an IDLE port with an empty queue (R22, R23). A MARK, with no message
open, retires MARKED and its report is posted (R1, R57, R60). A data record, while SKIP is set, retires SKIPPED with no word
moved, and its report is posted if it asks for one; SKIP ends with CONTINUE clear (R19, R58). The report queue has a free
entry, and nothing else changes. -/
def Obligations.PostedRecordRetiresAtOnce : Prop :=
  ∀ (port : BitVec 4) (p : PortId) (s : State) (r : Record), port.toNat = p.val → s.Ready →
    (s.port p).state = .idle → (s.port p).queue = [] → (s.port p).pausePending = false →
    (s.port p).msgOpen = false → (s.port p).resync = false → stagedRecord s.win = some r → r.Accepted →
    1 ≤ (s.port p).config.queueQuota → s.occupied < 64 → s.reports.entries.length < 32 →
    let P := s.port p
    let retires (st : Status) (posted : Bool) (skip words ended : Bool) : Prop :=
      ∃ t, exec (.post port) s = .next t ∧
        t.port p = { P with
          skip := skip, wordsPassed := words, endPassed := ended
          moved := 0, position := 0, burstStart := 0, repeats := 0, burstLength := 0, exchanged := 0
          endTaken := false, inHand := none, lookupRequest := false, cut := none, phase := .none, stallTimer := none
          latch := none, heldReport := none, abortPending := false } ∧
        t.reports = (if posted then
            s.reports.post (.record p st r.tag 0 false 0 r.urgent .absent)
          else s.reports) ∧
        t.map = s.map.leaveFence p ∧ t.win = { s.win with result := ⟨1, .accepted, 1⟩ } ∧
        (∀ q, q ≠ p → t.port q = s.port q) ∧ t.arbiter = s.arbiter ∧ t.access = s.access ∧ t.attn = s.attn ∧
        t.time = s.time ∧ t.pending = s.pending
    (r.work = .mark → P.skip = false → retires .marked true false P.wordsPassed P.endPassed) ∧
    (r.work.dir = some P.msgDir → P.Permits r.work → P.skip = true → P.attached = true →
      retires .skipped r.reportAlways r.work.cont (P.wordsPassed && r.work.cont) (P.endPassed && r.work.cont))

/-! ### Port commands -/

/-- A port command in a port state that does not take it is refused, the value showing the state, and RESULT alone changes
(Table 2-4, R25, R27 to R32, R34, R37). -/
def Obligations.PortCommandsRefusedByState : Prop :=
  ∀ (port : BitVec 4) (p : PortId) (tag : BitVec 16) (s : State), port.toNat = p.val → s.Ready →
    let P := s.port p
    let refused (c : Instr) (op : BitVec 4) (why : Reason) : Prop :=
      exec c s = .next { s with win := { s.win with result := ⟨op, why, P.state.code⟩ } }
    (P.state = .resetting →
      refused (.withdraw port tag) 2 .busy ∧ refused (.enable port) 3 .busy ∧ refused (.disable port) 4 .busy ∧
      refused (.pause port) 5 .busy ∧ refused (.resumeRecord port) 6 .busy ∧ refused (.resumeMessage port) 7 .busy ∧
      refused (.flush port) 8 .busy ∧ refused (.portReset port) 9 .busy) ∧
    (P.state ≠ .disabled → P.state ≠ .resetting → refused (.enable port) 3 .wrongState) ∧
    (P.state = .running ∨ P.state = .paused ∨ P.state = .blocked → refused (.disable port) 4 .busy) ∧
    (P.state = .disabled ∨ P.state = .halted → refused (.pause port) 5 .wrongState) ∧
    (P.state = .disabled ∨ P.state = .idle ∨ P.state = .blocked ∨ (P.state = .running ∧ P.pausePending = false) →
      refused (.resumeRecord port) 6 .wrongState ∧ refused (.resumeMessage port) 7 .wrongState) ∧
    (P.state = .running ∨ P.state = .blocked → refused (.flush port) 8 .busy)

/-- WITHDRAW chooses the first record of the queue that has not ended and has the TAG. A QUEUED one leaves its queue with
value 8, unless its removal would join an open message to the records behind it; with no such record the command is
refused NO MATCH (R34, R35). The port is not IDLE, or its new head cannot become current. -/
def Obligations.WithdrawRemovesQueued : Prop :=
  ∀ (port : BitVec 4) (p : PortId) (tag : BitVec 16) (s : State), port.toNat = p.val → s.Ready →
    (s.port p).state ≠ .resetting →
    let P := s.port p
    let passedOver (slot : Slot) : Prop := slot.stage = .ended ∨ slot.record.tag ≠ tag
    ((∀ slot ∈ P.queue, passedOver slot) →
      exec (.withdraw port tag) s = .next { s with win := { s.win with result := ⟨2, .noMatch, P.state.code⟩ } }) ∧
    (∀ (before after : List Slot) (r : Record), P.queue = before ++ ⟨r, .queued⟩ :: after → r.tag = tag →
      (∀ slot ∈ before, passedOver slot) →
      let openBefore : Prop :=
        (before = [] ∧ (P.msgOpen = true ∨ P.skip = true)) ∨ ∃ slot ∈ before.getLast?, slot.record.work.cont = true
      let joins : Prop := r.work.dir ≠ none ∧ r.work.cont = false ∧ openBefore ∧ after ≠ []
      (joins → exec (.withdraw port tag) s =
        .next { s with win := { s.win with result := ⟨2, .openMessage, P.state.code⟩ } }) ∧
      (¬joins →
        (P.state = .idle →
          (∀ slot ∈ (before ++ after).head?, slot.record.work.dir ≠ none ∧ slot.stage = .queued ∧
            (P.attached = false ∨ P.resync = true)) ∧
          (P.attached = true → P.resync = true → P.dirLine = .inbound)) →
        exec (.withdraw port tag) s = .next
          { s.setPort p { P with queue := before ++ after } with
            win := { s.win with result := ⟨2, .accepted, 8⟩ } }))

/-- WITHDRAW of the current record (R36, R40, R55): with a burst open it is marked ABORT-PENDING (value 10); a patch in
flight is refused BUSY. Otherwise it retires ABORTED (value 9): a data record between its bursts repairs its message on the
lines, and sets SKIP with CONTINUE set or closes the message; a PATCH record leaves the waiting claims. A held record
leaves its port PAUSED, a RUNNING port takes its next head, and a report without a free entry blocks the port (R61, R62). -/
def Obligations.WithdrawCurrent : Prop :=
  ∀ (port : BitVec 4) (p : PortId) (s : State) (r : Record) (rest : List Slot), port.toNat = p.val → s.Ready →
    (s.port p).state ≠ .resetting → (s.port p).queue = ⟨r, .current⟩ :: rest →
    let P := s.port p
    let result (why : Reason) (value : Nat) : HostWindow := { s.win with result := ⟨2, why, value⟩ }
    (r.work.dir ≠ none → P.burstOpen = true →
      exec (.withdraw port r.tag) s =
        .next { s.setPort p { P with abortPending := true } with win := result .accepted 10 }) ∧
    (∀ a, r.work = .patch a → (∃ f ∈ s.map.engine, f.origin = .port p ∧ f.owned = true) →
      exec (.withdraw port r.tag) s = .next { s with win := result .busy P.state.code }) ∧
    (P.burstOpen = false → P.state = .running ∨ P.state = .paused →
      let ended (map : MapUnit) : State := { s with win := result .accepted 9, map := map.leaveFence p }
      (∀ a, r.work = .patch a → (∀ f ∈ s.map.engine, f.origin ≠ .port p) →
        (ended { s.map with waiting := s.map.waiting.erase p }).Retires p P.recordGone r
          (.record p .aborted r.tag 0 false 0 r.urgent .absent) (exec (.withdraw port r.tag) s)) ∧
      (r.work.dir = some P.msgDir →
        (ended s.map).Retires p (P.abortedAt r.work) r (P.abortReport p r) (exec (.withdraw port r.tag) s)))

/-- ENABLE brings a DISABLED port to IDLE with value 1 (R27). A head that cannot become current waits, resync discard
turning DIR to INBOUND; a data head while ATTACHED is set and RESYNC and SKIP are clear becomes current; a PATCH head
becomes current and its claim is taken by a FREE engine or waits (R22, R23, R66, R80, R82, R129, R131). That RESULT shows value
1 also where the head becomes current within the step is the model's inference, log 11. -/
def Obligations.EnableTaken : Prop :=
  ∀ (port : BitVec 4) (p : PortId) (s : State), port.toNat = p.val → s.Ready → (s.port p).state = .disabled →
    (∀ slot ∈ (s.port p).queue, slot.stage = .queued) →
    let P := s.port p
    let win : HostWindow := { s.win with result := ⟨3, .accepted, 1⟩ }
    ((∀ slot ∈ P.queue.head?, slot.record.work.dir ≠ none ∧ (P.attached = false ∨ P.resync = true)) →
      exec (.enable port) s = .next
        { s.setPort p { P with
            state := .idle, dirLine := if P.resync && P.attached then .inbound else P.dirLine } with win := win }) ∧
    (∀ (r : Record) (rest : List Slot), P.queue = ⟨r, .queued⟩ :: rest →
      (∀ d, r.work.dir = some d → P.attached = true → P.resync = false → P.skip = false →
        r.work.isMove = true ∨ P.rdyLine = false →
        exec (.enable port) s = .next { s.setPort p (P.serving r rest d) with win := win }) ∧
      (∀ a, r.work = .patch a → P.resync = false →
        (s.map.engine = none →
          exec (.enable port) s = .next
            { s.setPort p (P.claiming r rest) with
              win := win
              map := { s.map with engine := some (.taken (.port p) a p P.window) } }) ∧
        (s.map.engine ≠ none →
          exec (.enable port) s = .next
            { s.setPort p (P.claiming r rest) with
              win := win, map := { s.map with waiting := s.map.waiting.insert p } })))

/-- DISABLE: an IDLE, HALTED or DISABLED port is DISABLED, keeping everything else; a port that cannot be is refused BUSY
(R28). -/
def Obligations.DisableTaken : Prop :=
  ∀ (port : BitVec 4) (p : PortId) (s : State), port.toNat = p.val → s.Ready →
    let P := s.port p
    (P.state = .disabled ∨ P.state = .idle ∨ P.state = .halted →
      exec (.disable port) s = .next
        { s.setPort p { P with state := .disabled } with win := { s.win with result := ⟨4, .accepted, 0⟩ } }) ∧
    (P.state = .running ∨ P.state = .paused ∨ P.state = .blocked ∨ P.state = .resetting →
      exec (.disable port) s = .next { s with win := { s.win with result := ⟨4, .busy, P.state.code⟩ } })

/-- PAUSE in every state of its port (R29). -/
def Obligations.PauseTaken : Prop :=
  ∀ (port : BitVec 4) (p : PortId) (s : State), port.toNat = p.val → s.Ready →
    let P := s.port p
    let patching : Prop :=
      (∃ f ∈ s.map.engine, f.origin = .port p ∧ f.owned = true) ∧ ∃ r rest, P.queue = ⟨r, .current⟩ :: rest ∧
        r.work = .patch r.work.address
    let result (why : Reason) (value : Nat) : HostWindow := { s.win with result := ⟨5, why, value⟩ }
    let paused : Port := { P with state := .paused, pausePending := false, pauseReached := true }
    (P.state = .idle → exec (.pause port) s = .next { s.setPort p paused with win := result .accepted 3 }) ∧
    (P.state = .running → P.burstOpen = false → ¬patching →
      exec (.pause port) s = .next
        { s.setPort p paused with
          win := result .accepted 3, map := { s.map with waiting := s.map.waiting.erase p } }) ∧
    (P.state = .running → P.burstOpen = true ∨ patching →
      exec (.pause port) s = .next { s.setPort p { P with pausePending := true } with win := result .accepted 7 }) ∧
    (P.state = .blocked →
      exec (.pause port) s = .next { s.setPort p { P with pausePending := true } with win := result .accepted 7 }) ∧
    (P.state = .paused → exec (.pause port) s = .next { s with win := result .accepted 3 }) ∧
    (P.state = .disabled ∨ P.state = .halted →
      exec (.pause port) s = .next { s with win := result .wrongState P.state.code }) ∧
    (P.state = .resetting → exec (.pause port) s = .next { s with win := result .busy P.state.code })

/-- RESUME-RECORD and RESUME-MESSAGE (R30, R31): a held data record is RUNNING again with its stall timer at 0, a held
PATCH record claims again, its claim taken by a FREE engine or waiting (R131); a port that holds none, or is HALTED, is IDLE;
a pending pause is cancelled. In HALTED RESUME-MESSAGE sets SKIP in place of MSG-OPEN. The held record starts no burst at
once, and a head of the IDLE port cannot become current. -/
def Obligations.ResumeTaken : Prop :=
  ∀ (c : Instr) (op port : BitVec 4) (p : PortId) (s : State),
    (c = .resumeRecord port ∧ op = 6) ∨ (c = .resumeMessage port ∧ op = 7) → port.toNat = p.val → s.Ready →
    let P := s.port p
    let result (value : Nat) : HostWindow := { s.win with result := ⟨op, .accepted, value⟩ }
    let discards := P.resync && P.attached
    let headWaits : Prop := ∀ slot ∈ P.queue.head?,
      slot.stage = .queued ∧ slot.record.work.dir ≠ none ∧ (P.attached = false ∨ P.resync = true)
    (P.state = .paused → ∀ (r : Record) (rest : List Slot), P.queue = ⟨r, .current⟩ :: rest →
      (r.work.dir ≠ none → r.work.isMove = true ∨ P.rdyLine = false →
        exec c s = .next { s.setPort p { P with state := .running, stallTimer := some 0 } with win := result 2 }) ∧
      (∀ a, r.work = .patch a → s.map.engine = none → P.resync = false →
        exec c s = .next { s.setPort p { P with state := .running } with
          win := result 2
          map := { s.map with engine := some (.taken (.port p) a p P.window) } }) ∧
      (∀ a, r.work = .patch a → s.map.engine ≠ none → P.resync = false →
        exec c s = .next { s.setPort p { P with state := .running } with
          win := result 2, map := { s.map with waiting := s.map.waiting.insert p } })) ∧
    (P.state = .paused → headWaits →
      exec c s = .next
        { s.setPort p { P with state := .idle, dirLine := if discards then .inbound else P.dirLine } with
          win := result 1 }) ∧
    (P.state = .running → P.pausePending = true → P.burstOpen = true ∨ P.currentPatch ≠ none → P.resync = false →
      exec c s = .next { s.setPort p { P with pausePending := false } with win := result 2 }) ∧
    (P.state = .halted → headWaits →
      exec c s = .next
        { s.setPort p { P with
            state := .idle, dirLine := if discards then .inbound else P.dirLine
            msgOpen := P.msgOpen && op == 6, skip := P.skip || (P.msgOpen && op == 7) } with
          win := result 1 })

/-- FLUSH drops every record of a DISABLED, IDLE, PAUSED or HALTED port and posts one PORT report for them; the open message is
repaired on the lines and closed, and the value is the count. With records and a full report queue it is refused REPORT
FULL (R32, R33). -/
def Obligations.FlushTaken : Prop :=
  ∀ (port : BitVec 4) (p : PortId) (s : State), port.toNat = p.val → s.Ready →
    let P := s.port p
    let count := P.queue.length
    P.state = .disabled ∨ P.state = .idle ∨ P.state = .paused ∨ P.state = .halted →
    (P.queue ≠ [] → 32 ≤ s.reports.entries.length →
      exec (.flush port) s = .next { s with win := { s.win with result := ⟨8, .reportFull, P.state.code⟩ } }) ∧
    (P.queue = [] ∨ s.reports.entries.length < 32 →
      let messageOpen := P.msgOpen || P.skip
      let resync := P.resync || (messageOpen && P.msgDir == .inbound && !P.endPassed)
      exec (.flush port) s = .next
        { s.setPort p { P with
            queue := [], phase := .none, inHand := none, lookupRequest := false, cut := none, stallTimer := none
            abortPending := false, latch := none, resync := resync
            can := if messageOpen = true ∧ P.msgDir = .outbound ∧ P.wordsPassed = true ∧ P.endPassed = false then
              some 0 else P.can
            msgOpen := false, skip := false, wordsPassed := false, endPassed := false
            dirLine := if (P.state = .idle ∨ P.state = .halted) ∧ resync = true ∧ P.attached = true then .inbound
              else P.dirLine } with
          win := { s.win with result := ⟨8, .accepted, count⟩ }
          map := s.map.leaveFence p
          reports := if count = 0 then s.reports else s.reports.post (.flushed p count) })

/-- PORT RESET: the port's queue, progress, flags and latch are gone without a report, CONFIG, WINDOW and ATTACHED kept, CAN
asserted for a broken outbound message; the port leaves the waiting claims (R131), the blocked list and the fence set, as
FenceTaken says it of a port that leaves, FENCE END set by the last one (R120, R137, R139, R140), and a patch in flight for
it runs on, with no record to retire. The map unit is otherwise as it was, PATCH END, CORRECTED and POISONED too (R127). The
port is RESETTING while it holds the data path, else DISABLED (Table 2-1, R37, R136). That CAN, where no broken outbound
message asserts it, is deasserted at once also inside the hold of an earlier CAN event is the model's choice, log 35. -/
def Obligations.PortResetTaken : Prop :=
  ∀ (port : BitVec 4) (p : PortId) (s : State), port.toNat = p.val → s.Ready → (s.port p).state ≠ .resetting →
    let P := s.port p
    let next : PortState := if s.arbiter.holder = .port p then .resetting else .disabled
    ∃ t, exec (.portReset port) s = .next t ∧
      t.port p = { State.reset.port p with
        state := next, config := P.config, window := P.window, attached := P.attached
        attLine := P.attLine, rdyLine := P.rdyLine
        can := if (P.msgOpen = true ∨ P.skip = true) ∧ P.msgDir = .outbound ∧ P.wordsPassed = true ∧
          P.endPassed = false then some 0 else none } ∧
      (∀ q, q ≠ p → t.port q = s.port q) ∧
      t.win = { s.win with result := ⟨9, .accepted, next.code⟩ } ∧
      t.reports = { s.reports with blocked := s.reports.blocked.filter (· ≠ p) } ∧
      t.map = { s.map.leaveFence p with
        waiting := s.map.waiting.erase p
        engine := s.map.engine.map fun f => if f.origin = .port p then { f with owned := false } else f } ∧
      t.arbiter = s.arbiter ∧ t.access = s.access ∧ t.attn = s.attn ∧ t.time = s.time ∧ t.pending = s.pending

/-! ### PATCH and FENCE -/

/-- PATCH is refused BUSY while INIT BUSY or RESET BUSY is set, then BAD PORT for a port field of 8 or more, MISALIGNED for a
misaligned PATCHADDR and BUSY while a patch is in flight, all with value 0 and nothing else changed. Otherwise the engine takes
the claim at once with origin HOST, the address of PATCHADDR, the format port named and its window, value 0 (R130). -/
def Obligations.PatchTaken : Prop :=
  ∀ (port : BitVec 4) (s : State), s.Live →
    let result (why : Reason) : HostWindow := { s.win with result := ⟨10, why, 0⟩ }
    let refused (why : Reason) : Prop := exec (.patch port) s = .next { s with win := result why }
    (s.win.initBusy = true ∨ s.win.resetBusy = true → refused .busy) ∧
    (s.Ready →
      (8 ≤ port.toNat → refused .badPort) ∧
      (port.toNat < 8 → s.map.patchAddr.toNat % 4 ≠ 0 → refused .misaligned) ∧
      (port.toNat < 8 → s.map.patchAddr.toNat % 4 = 0 → s.map.engine ≠ none → refused .busy) ∧
      (∀ p : PortId, port.toNat = p.val → s.map.patchAddr.toNat % 4 = 0 → s.map.engine = none →
        exec (.patch port) s = .next { s with
          win := result .accepted
          map := { s.map with engine := some (.taken .host s.map.patchAddr p (s.port p).window) } }))

/-- FENCE (R138): refused BUSY while INIT BUSY or RESET BUSY is set or a fence is pending; otherwise its set is the ports whose
latch is valid, its value their number, and an empty set completes it at once. A port that leaves the set is erased from
it, and the last one to leave completes the fence (R139). -/
def Obligations.FenceTaken : Prop :=
  (∀ s : State, s.Live →
    s.win.initBusy = true ∨ s.win.resetBusy = true ∨ s.map.fencePending = true →
    exec .fence s = .next { s with win := { s.win with result := ⟨11, .busy, 0⟩ } }) ∧
  (∀ s : State, s.Ready →
    (s.map.fencePending = false →
      let holders : List PortId := (List.finRange 8).filter fun p => (s.port p).latch.isSome
      ∃ set : PortSet, (∀ p, set.mem p = (s.port p).latch.isSome) ∧
        exec .fence s = .next { s with
          win := { s.win with result := ⟨11, .accepted, holders.length⟩ }
          map := { s.map with
            fenceSet := set, fencePending := holders ≠ [], fenceEnd := s.map.fenceEnd || decide (holders = []) } })) ∧
  ∀ (m : MapUnit) (p : PortId),
    (m.fenceSet.mem p = false → m.leaveFence p = m) ∧
    (m.fenceSet.mem p = true → ∀ q, q ≠ p → m.fenceSet.mem q = true →
      m.leaveFence p = { m with fenceSet := m.fenceSet.erase p }) ∧
    (m.fenceSet.mem p = true → m.fencePending = true → (∀ q, q ≠ p → m.fenceSet.mem q = false) →
      m.leaveFence p = { m with fenceSet := m.fenceSet.erase p, fencePending := false, fenceEnd := true })

/-! ### The report queue -/

/-- A posting puts the report at the tail (R142). It raises REPORT DUE, announces every entry and stops the holdoff timer when
the unannounced count reaches THRESHOLD, HOLDOFF is 0, or the report is of an URGENT record or an error status; otherwise
the entry is unannounced, and the timer starts if no other entry is (R149, R150). -/
def Obligations.PostingAnnounces : Prop :=
  ∀ (q : ReportQueue) (r : Report),
    let waiting := (q.entries.filter fun e => !e.announced).length
    let atOnce : Prop := q.threshold ≤ waiting + 1 ∨ q.holdoff = 0 ∨
      ∃ port st tag moved messageEnd repeats urgent d,
        r = .record port st tag moved messageEnd repeats urgent d ∧
          (urgent = true ∨ st ∈ [.underrun, .overrun, .repeatLimit, .periphFault, .stalled, .detached, .mapFault,
            .busError, .patchRejected])
    (atOnce → q.post r = { q with
      entries := (q.entries.map fun e => { e with announced := true }) ++ [⟨r, true⟩]
      reportDue := true, holdoffTimer := none }) ∧
    (¬atOnce → q.post r = { q with
      entries := q.entries ++ [⟨r, false⟩], holdoffTimer := if waiting = 0 then some 0 else q.holdoffTimer })

/-- POP (R145): refused REPORT EMPTY on an empty queue. Otherwise the head is removed, the timer stopping with the last
unannounced entry; with the blocked list empty RESULT shows the count left. With a port at its front, that port's report is
posted and its retirement completes: an error status halts it, a pending pause pauses it, and otherwise it takes its next
head at once (R22, R23, R41, R61, R146). A run of skipped records finds the port in no fence set. -/
def Obligations.PopTaken : Prop :=
  ∀ s : State, s.Ready →
    let win (why : Reason) (value : Nat) : HostWindow := { s.win with result := ⟨12, why, value⟩ }
    (s.reports.entries = [] → exec .pop s = .next { s with win := win .reportEmpty 0 }) ∧
    (∀ (e : ReportEntry) (rest : List ReportEntry), s.reports.entries = e :: rest →
      let stops := !e.announced && rest.all fun x => x.announced
      let removed : ReportQueue := { s.reports with
        entries := rest, holdoffTimer := if stops then none else s.reports.holdoffTimer }
      (s.reports.blocked = [] →
        exec .pop s = .next { s with reports := removed, win := win .accepted rest.length }) ∧
      (∀ (p : PortId) (others : List PortId) (st : Status) (tag : BitVec 16) (moved repeats : Nat)
          (messageEnd urgent : Bool) (d : Detail) (slot : Slot) (after : List Slot),
        let rep : Report := .record p st tag moved messageEnd repeats urgent d
        let P := s.port p
        s.reports.blocked = p :: others → P.heldReport = some rep → P.queue = slot :: after →
        (∀ x ∈ after, x.stage = .queued) →
        let posted : ReportQueue := { removed with blocked := others }.post rep
        let gone : Port := { P with queue := after, heldReport := none, pausePending := false }
        (st.isError = true →
          exec .pop s = .next
            { s.setPort p { gone with
                state := .halted, haltEvent := true
                dirLine := if P.resync && P.attached then .inbound else P.dirLine } with
              reports := posted, win := win .accepted (rest.length + 1) }) ∧
        (st.isError = false → P.pausePending = true →
          exec .pop s = .next
            { s.setPort p { gone with state := .paused, pauseReached := true } with
              reports := posted, win := win .accepted (rest.length + 1) }) ∧
        (st.isError = false → P.pausePending = false → P.state ≠ .paused →
          P.skip = false ∨ s.map.fenceSet.mem p = false → ∀ next, Port.TakesHead { gone with state := .idle } next →
          exec .pop s = .next
            { s.setPort p next with reports := posted, win := win .accepted (rest.length + 1) })))

/-! ### The attention unit -/

/-- A source is pending by Table 10-1, its LEVEL two bits of ALEVEL, eligible while pending, unmasked and below CSL; INT is
asserted while ATTN ENABLE is set and a source is eligible (R153, R154, R156). That this holds while RESET is held too (log
32), and for a source during INIT BUSY, where R161 has the sources clear (log 34), is the model's choice. -/
def Obligations.InterruptFollowsSources : Prop :=
  ∀ s : State,
    (∀ p : PortId, s.sourcePending p.val = true ↔
      ((s.port p).haltEvent = true ∧ (s.port p).config.attnHalt = true) ∨
      ((s.port p).attachChange = true ∧ (s.port p).config.attnAttach = true) ∨
      ((s.port p).pauseReached = true ∧ (s.port p).config.attnPause = true)) ∧
    (s.sourcePending 8 = true ↔ s.reports.reportDue = true) ∧
    (s.sourcePending 9 = true ↔
      (s.map.patchEnd = true ∧ s.map.mapEn.getLsbD 0 = true) ∨ (s.map.fenceEnd = true ∧ s.map.mapEn.getLsbD 1 = true) ∨
      (s.map.correctedFlag = true ∧ s.map.mapEn.getLsbD 2 = true) ∨
      (s.map.poisonedFlag = true ∧ s.map.mapEn.getLsbD 3 = true)) ∧
    (∀ c : Fin 10,
      let level := s.attn.alevel.toNat / 4 ^ c.val % 4
      s.attn.level c.val = level ∧
      (s.eligible c.val = true ↔
        s.sourcePending c.val = true ∧ s.attn.amask.getLsbD level = false ∧ level < s.attn.csl)) ∧
    (s.int = true ↔ s.win.attnEnable = true ∧ ∃ c : Fin 10, s.eligible c.val = true)

/-- ACKPEEK returns the chosen source: the numerically lowest LEVEL among the eligible sources, and of that level the lowest
code; with none eligible code 15 with level 0. The read changes nothing else (R157). -/
def Obligations.AckPeekChooses : Prop :=
  ∀ s : State, s.Live →
    (∀ c : Fin 10, s.eligible c.val = true →
      (∀ c' : Fin 10, s.eligible c'.val = true → s.attn.level c.val ≤ s.attn.level c'.val ∧
        (s.attn.level c'.val = s.attn.level c.val → c.val ≤ c'.val)) →
      exec (.ackpeek false) s =
        .next { s with win := { s.win with hostRead := BitVec.ofNat 32 (c.val + 256 * s.attn.level c.val) } }) ∧
    ((∀ c : Fin 10, s.eligible c.val = false) →
      exec (.ackpeek false) s = .next { s with win := { s.win with hostRead := 15 } })

/-- ACKNEST answers as ACKPEEK does; a chosen source's LEVEL is entered and CSL pushed while the stack holds fewer than four
entries, a full stack answers 15 and sets OVERFLOW, and with no source eligible nothing changes (R158). -/
def Obligations.AckNestEnters : Prop :=
  ∀ s : State, s.Live →
    (4 ≤ s.attn.stack.length →
      exec (.acknest false) s =
        .next { s with attn := { s.attn with overflow := true }, win := { s.win with hostRead := 15 } }) ∧
    (s.attn.stack.length < 4 →
      ((∀ c : Fin 10, s.eligible c.val = false) →
        exec (.acknest false) s = .next { s with win := { s.win with hostRead := 15 } }) ∧
      (∀ c : Fin 10, s.eligible c.val = true →
        (∀ c' : Fin 10, s.eligible c'.val = true → s.attn.level c.val ≤ s.attn.level c'.val ∧
          (s.attn.level c'.val = s.attn.level c.val → c.val ≤ c'.val)) →
        exec (.acknest false) s = .next { s with
          attn := { s.attn with stack := s.attn.csl :: s.attn.stack, csl := s.attn.level c.val }
          win := { s.win with hostRead := BitVec.ofNat 32 (c.val + 256 * s.attn.level c.val) } }))

/-- EOS: the top of the stack becomes CSL; with an empty stack CSL is BASE and UNDERFLOW is set. The value written is ignored
(R159). An ACKNEST that entered a level and the EOS after it leave CSL and the stack as they were. -/
def Obligations.EndOfService : Prop :=
  ∀ (v : Word) (s : State), s.Live →
    (∀ top rest, s.attn.stack = top :: rest →
      exec (.eos v) s = .next { s with attn := { s.attn with csl := top, stack := rest } }) ∧
    (s.attn.stack = [] → exec (.eos v) s = .next { s with attn := { s.attn with csl := 4, underflow := true } }) ∧
    (∀ (c : Fin 10) (t : State), s.attn.stack.length < 4 → s.eligible c.val = true →
      exec (.acknest false) s = .next t →
      exec (.eos v) t = .next { s with win := { s.win with hostRead := t.win.hostRead } })

/-! ### Registers of the window -/

/-- A 32-bit write of a W1C register clears each of its fields written with 1 and leaves each written with 0; nothing else
changes (R42, R125, R151, R160, R163, R165, Tables 11-8 to 11-10). -/
def Obligations.StatusFieldsCleared : Prop :=
  ∀ (p : PortId) (v : Word) (s : State), s.Live →
    exec (.portStatusClear p v) s = .next (s.setPort p { s.port p with
      haltEvent := (s.port p).haltEvent && !v.getLsbD 16, attachChange := (s.port p).attachChange && !v.getLsbD 17
      pauseReached := (s.port p).pauseReached && !v.getLsbD 18 }) ∧
    exec (.reportDueClear v) s =
      .next { s with reports := { s.reports with reportDue := s.reports.reportDue && !v.getLsbD 24 } } ∧
    exec (.mapstatClear v) s = .next { s with map := { s.map with
      patchEnd := s.map.patchEnd && !v.getLsbD 25, fenceEnd := s.map.fenceEnd && !v.getLsbD 26
      correctedFlag := s.map.correctedFlag && !v.getLsbD 27, poisonedFlag := s.map.poisonedFlag && !v.getLsbD 28 } } ∧
    exec (.astatClear v) s = .next { s with attn := { s.attn with
      overflow := s.attn.overflow && !v.getLsbD 24, underflow := s.attn.underflow && !v.getLsbD 25 } } ∧
    exec (.writeIgnoredClear v) s =
      .next { s with win := { s.win with writeIgnored := s.win.writeIgnored && !v.getLsbD 2 } }

/-- GCTRL takes ATTN ENABLE and TBDIV, and RQCTRL THRESHOLD and HOLDOFF, with a raising where the unannounced count or the
running timer has reached the new value; PORTp CONFIG and WINDOW are taken in DISABLED alone. A value out of range, or
a write that the state does not take, sets WRITE IGNORED and changes nothing else (R44, R114, R151, R164, R165). -/
def Obligations.ControlRegistersWritten : Prop :=
  ∀ (p : PortId) (v : Word) (s : State), s.Live →
    let ignored : State := { s with win := { s.win with writeIgnored := true } }
    (v.toNat / 256 % 256 = 0 → exec (.gctrlWrite v) s = .next ignored) ∧
    (v.toNat / 256 % 256 ≠ 0 → exec (.gctrlWrite v) s = .next { s with win := { s.win with
      attnEnable := v.getLsbD 0, tbdiv := BitVec.ofNat 8 (v.toNat / 256 % 256) } }) ∧
    (let threshold := v.toNat % 64
     let holdoff := v.toNat / 256 % 256
     let count := (s.reports.entries.filter fun e => !e.announced).length
     let raises : Prop := (1 ≤ count ∧ threshold ≤ count) ∨ ∃ n ∈ s.reports.holdoffTimer, holdoff ≤ n
     (s.win.initBusy = true ∨ threshold = 0 ∨ 32 < threshold → exec (.rqctrlWrite v) s = .next ignored) ∧
     (s.win.initBusy = false → 1 ≤ threshold → threshold ≤ 32 →
       (raises → exec (.rqctrlWrite v) s = .next { s with reports := { s.reports with
         threshold := threshold, holdoff := holdoff, reportDue := true, holdoffTimer := none
         entries := s.reports.entries.map fun e => { e with announced := true } } }) ∧
       (¬raises → exec (.rqctrlWrite v) s =
         .next { s with reports := { s.reports with threshold := threshold, holdoff := holdoff } }))) ∧
    (∀ f : ConfigFields,
      let fits : Prop := 1 ≤ f.burstQuota ∧ f.burstQuota ≤ 64 ∧ 1 ≤ f.queueQuota ∧ f.queueQuota ≤ 64
      let taken (cls : PortClass) : State := s.setPort p { s.port p with
        config := ⟨cls, f.burstQuota, f.repeatLimit, f.stallLimit, f.queueQuota, f.mappedOnly, f.patchPermit,
          f.attnHalt, f.attnAttach, f.attnPause⟩ }
      ((s.port p).state ≠ .disabled ∨ ¬fits ∨ f.cls = .undefinedCode → exec (.configWrite p f) s = .next ignored) ∧
      ((s.port p).state = .disabled → fits →
        (f.cls = .urgent → exec (.configWrite p f) s = .next (taken .urgent)) ∧
        (f.cls = .normal → exec (.configWrite p f) s = .next (taken .normal)))) ∧
    (let base := v.toNat % 1024
     let span := v.toNat / 65536 % 2048
     ((s.port p).state ≠ .disabled ∨ 1024 < base + span → exec (.windowWrite p v) s = .next ignored) ∧
     ((s.port p).state = .disabled → base + span ≤ 1024 →
       exec (.windowWrite p v) s = .next (s.setPort p { s.port p with window := ⟨base, span⟩ })))

/-- A write narrower than 32 bits is discarded whole with WRITE IGNORED set, and a narrow read of ACKPEEK, ACKNEST or MAPDATA
answers 0 and changes nothing. A 32-bit write of STAGE0 to STAGE3, MAPEN, PATCHADDR,
ALEVEL, AMASK or MAPINDEX is taken, MAPINDEX not during INIT BUSY and not above 1023; a write of any other register without
a row of its own sets WRITE IGNORED (R4, R112, R121, R125, R130, R154, R162, Table 11-1). -/
def Obligations.RegistersWritten : Prop :=
  ∀ (offset : BitVec 8) (v : Word) (s : State), s.Live →
    let write (o : BitVec 8) (t : State) : Prop := exec (.registerWrite o false v) s = .next t
    let ignored : State := { s with win := { s.win with writeIgnored := true } }
    let readsZero (c : Instr) : Prop := exec c s = .next { s with win := { s.win with hostRead := 0 } }
    exec (.registerWrite offset true v) s = .next ignored ∧
    readsZero (.ackpeek true) ∧ readsZero (.acknest true) ∧ readsZero (.mapdataRead true) ∧
    write 0x14 { s with win := { s.win with stage0 := v } } ∧ write 0x18 { s with win := { s.win with stage1 := v } } ∧
    write 0x1C { s with win := { s.win with stage2 := v } } ∧ write 0x20 { s with win := { s.win with stage3 := v } } ∧
    (s.win.initBusy = true ∨ 1023 < v.toNat → write 0x38 ignored) ∧
    (s.win.initBusy = false → v.toNat ≤ 1023 → write 0x38 { s with map := { s.map with mapIndex := v.toNat } }) ∧
    write 0x44 { s with map := { s.map with mapEn := BitVec.ofNat 4 v.toNat } } ∧
    write 0x48 { s with map := { s.map with patchAddr := v } } ∧
    write 0x50 { s with attn := { s.attn with alevel := BitVec.ofNat 20 v.toNat } } ∧
    write 0x54 { s with attn := { s.attn with amask := BitVec.ofNat 4 v.toNat } } ∧
    (Instr.wellFormed (.registerWrite offset false v) = true →
      offset ∉ [0x14, 0x18, 0x1C, 0x20, 0x38, 0x44, 0x48, 0x50, 0x54] → write offset ignored)

/-- MAPDATA (R111, R121, R122, R124): a write replaces the entry of MAPINDEX whole, GOOD and undisturbed; it is discarded
during INIT BUSY. A read answers 0 during INIT BUSY; otherwise it is a detection: it corrects a one-bit disturbance,
counting up to 255, poisons an entry of two bits, and answers the entry as it then stands. No other entry changes. -/
def Obligations.MapdataAccessed : Prop :=
  ∀ (v : Word) (s : State), s.Live → s.map.wf →
    let i := s.map.mapIndex
    let e := s.map.entry i
    (s.win.initBusy = true →
      exec (.mapdataWrite v) s = .next { s with win := { s.win with writeIgnored := true } } ∧
      exec (.mapdataRead false) s = .next { s with win := { s.win with hostRead := 0 } }) ∧
    (s.win.initBusy = false →
      (∃ t, exec (.mapdataWrite v) s = .next t ∧
        t.map.entry i = ⟨⟨BitVec.ofNat 20 (v.toNat / 4096), v.getLsbD 0, v.getLsbD 1, v.getLsbD 2⟩, false, .none⟩ ∧
        (∀ j, j ≠ i → t.map.entry j = s.map.entry j) ∧
        t = { s with map := { s.map with entries := t.map.entries } }) ∧
      (∃ t, exec (.mapdataRead false) s = .next t ∧
        (∀ j, j ≠ i → t.map.entry j = s.map.entry j) ∧ (t.map.entry i).contents = e.contents ∧
        t.win.hostRead.toNat / 4096 = e.contents.frame.toNat ∧ t.win.hostRead.getLsbD 0 = e.contents.valid ∧
        t.win.hostRead.getLsbD 1 = e.contents.read ∧ t.win.hostRead.getLsbD 2 = e.contents.write ∧
        t.win.hostRead.getLsbD 3 = (t.map.entry i).poisoned ∧ t.win.hostRead.toNat / 16 % 256 = 0 ∧
        (e.poisoned = true ∨ e.disturbance = .none →
          t.map.entry i = e ∧ t = { s with win := { s.win with hostRead := t.win.hostRead } }) ∧
        (e.poisoned = false → e.disturbance = .oneBit →
          t.map.entry i = { e with disturbance := .none } ∧
          t = { s with
            win := { s.win with hostRead := t.win.hostRead }
            map := { s.map with
              entries := t.map.entries, correctedFlag := true, corrections := min 255 (s.map.corrections + 1) } }) ∧
        (e.poisoned = false → e.disturbance = .twoBits →
          t.map.entry i = { e with poisoned := true, disturbance := .none } ∧
          t = { s with
            win := { s.win with hostRead := t.win.hostRead }
            map := { s.map with entries := t.map.entries, poisonedFlag := true } })))

/-- The map initialisation writes its next entry, with FRAME 0, VALID, READ and WRITE clear, GOOD and undisturbed, and at its
end every entry left, INIT BUSY then cleared. Without INIT BUSY neither event changes anything (R112, logs 6 and 9). -/
def Obligations.MapInitialised : Prop :=
  ∀ s : State, s.Live → s.map.wf →
    let blank : MapEntry := ⟨⟨0, false, false, false⟩, false, .none⟩
    (s.win.initBusy = false → exec .initEntryWritten s = .next s ∧ exec .initEnd s = .next s) ∧
    (s.win.initBusy = true → s.map.initNext < 1024 →
      ∃ t, exec .initEntryWritten s = .next t ∧ t.map.entry s.map.initNext = blank ∧
        (∀ j, j ≠ s.map.initNext → t.map.entry j = s.map.entry j) ∧
        t = { s with map := { s.map with entries := t.map.entries, initNext := s.map.initNext + 1 } }) ∧
    (s.win.initBusy = true →
      ∃ t, exec .initEnd s = .next t ∧ (∀ j, s.map.initNext ≤ j → t.map.entry j = blank) ∧
        (∀ j, j < s.map.initNext → t.map.entry j = s.map.entry j) ∧
        t = { s with
          win := { s.win with initBusy := false }
          map := { s.map with entries := t.map.entries, initNext := 1024 } })

/-- A disturbance changes the disturbance item of its entry alone: NONE takes the event's size, every other item becomes or
stays TWO BITS, and a POISONED entry absorbs it (R123). -/
def Obligations.DisturbanceTaken : Prop :=
  ∀ (index : Fin 1024) (size : DisturbanceSize) (s : State), s.Live → s.map.wf →
    let e := s.map.entry index.val
    ∃ t, exec (.disturbance index size) s = .next t ∧
      (∀ j, j ≠ index.val → t.map.entry j = s.map.entry j) ∧
      (e.poisoned = true → t.map.entry index.val = e) ∧
      (e.poisoned = false → e.disturbance = .none → size = .oneBit →
        t.map.entry index.val = { e with disturbance := .oneBit }) ∧
      (e.poisoned = false → e.disturbance ≠ .none ∨ size = .twoBits →
        t.map.entry index.val = { e with disturbance := .twoBits }) ∧
      t = { s with map := { s.map with entries := t.map.entries } }

/-! ### Attach, detach, fault -/

/-- ATTACH sets ATTACHED and ATTACH CHANGE and clears RESYNC (R71); a data record waiting at the head of an IDLE port becomes
current (R22). In the first clause no record waits at an IDLE port; in the second the burst of the record does not start
with it. -/
def Obligations.AttachTaken : Prop :=
  ∀ (p : PortId) (s : State), s.Live →
    let attached : Port := { s.port p with attLine := true, attached := true, attachChange := true, resync := false }
    ((s.port p).state ≠ .idle ∨ (s.port p).queue = [] → exec (.attach p) s = .next (s.setPort p attached)) ∧
    (∀ (r : Record) (rest : List Slot) (d : Direction), (s.port p).state = .idle →
      (s.port p).queue = ⟨r, .queued⟩ :: rest → r.work.dir = some d → (s.port p).skip = false →
      r.work.isMove = true ∨ (s.port p).rdyLine = false →
      exec (.attach p) s = .next (s.setPort p (attached.serving r rest d)))

/-- DETACH clears ATTACHED and RESYNC and sets ATTACH CHANGE; FLT changes nothing by itself (R72, R74). A current data record
ends at once with DETACHED or PERIPH FAULT, its port HALTED, or BLOCKED where its report finds no free entry (R61, R62),
unless a host access of its burst is under way: then the burst is cut and ends with the access, and a second such event in
that interval ends nothing more (R73). -/
def Obligations.DetachAndFaultEndRecords : Prop :=
  ∀ (p : PortId) (s : State), s.Live →
    let P := s.port p
    let detached : Port := { P with attLine := false, attached := false, attachChange := true, resync := false }
    (P.currentData = none → exec (.detach p) s = .next (s.setPort p detached) ∧ exec (.flt p) s = .next s) ∧
    (∀ (r : Record) (rest : List Slot), P.queue = ⟨r, .current⟩ :: rest → r.work.dir ≠ none →
      (∀ slot ∈ rest, slot.stage = .queued) →
      let accessUnderWay : Prop := P.phase = .transferring ∧ s.arbiter.holder = .port p ∧ s.access ≠ none
      (accessUnderWay → P.cut = none →
        exec (.detach p) s = .next (s.setPort p { detached with cut := some .detached }) ∧
        exec (.flt p) s = .next (s.setPort p { P with cut := some .periphFault })) ∧
      (accessUnderWay → P.cut = some .detached ∨ P.cut = some .periphFault →
        exec (.detach p) s = .next (s.setPort p detached) ∧ exec (.flt p) s = .next s) ∧
      (¬accessUnderWay →
        (∃ t, exec (.detach p) s = .next t ∧ s.FailsAt t p detached r .detached .absent) ∧
        (∃ t, exec (.flt p) s = .next t ∧ s.FailsAt t p P r .periphFault .absent)))

/-! ### Confirmation and repeats -/

/-- CNF outside CONFIRMING is ignored. In CONFIRMING it counts the burst's words as moved and restarts the stall timer (R75).
Short of LENGTH the burst is over: a pending abort retires the record ABORTED with the words confirmed, a pending pause
holds it, and otherwise it waits for its next burst, which a FILL with RDY present starts (R40, R55, R85, R96). At LENGTH the
record retires DONE, its message closed with CONTINUE clear (R19, R52), and the port takes its next head, is PAUSED by a
pending pause, or is BLOCKED where a report the record asks for finds no free entry (R22, R23, R60 to R62). A burst that
begins in this step is marked for an RPT that came together with the CNF (R78; the mark is the model's, log 29). -/
def Obligations.ConfirmationTaken : Prop :=
  ∀ (p : PortId) (s : State) (r : Record) (rest : List Slot), s.Live →
    let P := s.port p
    P.queue = ⟨r, .current⟩ :: rest → r.work.dir = some .outbound →
    let moved := P.moved + P.exchanged
    (P.phase ≠ .confirming ∨ P.state ≠ .running → exec (.cnf p) s = .next s) ∧
    (P.phase = .confirming → P.state = .running → P.msgDir = .outbound → P.skip = false → P.resync = false →
      s.arbiter.holder ≠ .port p →
      let marked (t : State) : State :=
        t.setPort p { t.port p with answered := decide ((t.port p).phase = .transferring) }
      let counted : Port := { P with
        moved := moved, stallTimer := some 0, phase := .waiting, inHand := none, lookupRequest := false, cut := none }
      ∃ t, exec (.cnf p) s = .next (marked t) ∧
      (moved < r.work.length → s.BurstOver p counted r (.next t)) ∧
      (r.work.length ≤ moved →
        { s with map := s.map.leaveFence p }.Retires p
          { counted.recordGone with
            msgOpen := P.msgOpen && r.work.cont
            wordsPassed := P.wordsPassed && r.work.cont, endPassed := P.endPassed && r.work.cont }
          r (.record p .done r.tag moved (!r.work.cont) P.repeats r.urgent .absent) (.next t)))

/-- RPT is ignored in WAITING (R76), in the interval of a cut by a detach or FLT (R73), by the model's inference log 12 in that
of an RPT's own cut, and, as the second answer to a burst, at the burst that began in the step of the CNF (R78): by the
model's choice log 29 the first RPT before that burst has sent a word is that one. In CONFIRMING, or in TRANSFERRING without a host access under way, it rewinds the burst while
the repeat count is below REPEAT LIMIT, the words moved kept and END PASSED cleared if the burst carried END, and the
pending actions of a burst's end follow (R40); at the limit the record ends REPEAT LIMIT. With an access under way it cuts
the burst (R48, R52, R76, R77). -/
def Obligations.RepeatTaken : Prop :=
  ∀ (p : PortId) (s : State) (r : Record) (rest : List Slot), s.Live →
    let P := s.port p
    P.queue = ⟨r, .current⟩ :: rest → (∀ slot ∈ rest, slot.stage = .queued) → r.work.dir = some .outbound →
    P.state = .running →
    let accessUnderWay : Prop := s.arbiter.holder = .port p ∧ s.access ≠ none
    let carriedEnd : Bool := r.work.cont == false && decide (P.position = r.work.length ∧ 0 < P.exchanged)
    let unended : Port := { P with endPassed := P.endPassed && !carriedEnd }
    let secondAnswer : Prop := P.answered = true ∧ P.exchanged = 0
    let repeated : Prop :=
      P.phase = .confirming ∨ (P.phase = .transferring ∧ P.cut = none ∧ ¬secondAnswer ∧ ¬accessUnderWay)
    (P.phase = .none ∨ P.phase = .waiting ∨ (P.phase = .transferring ∧ P.cut ≠ none) → exec (.rpt p) s = .next s) ∧
    (P.phase = .transferring → P.cut = none → secondAnswer →
      exec (.rpt p) s = .next (s.setPort p { P with answered := false })) ∧
    (P.phase = .transferring → P.cut = none → ¬secondAnswer → accessUnderWay →
      exec (.rpt p) s = .next (s.setPort p { P with cut := some .repeatRequest })) ∧
    (repeated → P.repeats < P.config.repeatLimit.toNat → P.msgDir = .outbound → P.skip = false → P.resync = false →
      (s.givenBack p).BurstOver p { unended with
          repeats := P.repeats + 1, position := P.burstStart, stallTimer := some 0, phase := .waiting
          inHand := none, lookupRequest := false, cut := none } r (exec (.rpt p) s)) ∧
    (repeated → P.config.repeatLimit.toNat ≤ P.repeats →
      ∃ t, exec (.rpt p) s = .next t ∧ s.FailsAt t p unended r .repeatLimit .absent)

/-! ### Words and bursts -/

/-- RDY present starts the burst of a waiting FILL or DRAIN, of the smaller of BURST QUOTA and the words remaining (R85, R88);
for a MOVE the level alone changes. RDY absent while a burst wants a word ends its transfer phase as a yield: an outbound
burst that sent a word goes to CONFIRMING, every other one back to WAITING, and a MOVE gives the data path back (R86, R87,
R94). That a burst which stood wanting a word with RDY present yields at the fall itself is the model's inference, log 15. -/
def Obligations.ReadyLevelTaken : Prop :=
  ∀ (p : PortId) (s : State) (r : Record) (rest : List Slot), s.Live →
    let P := s.port p
    P.queue = ⟨r, .current⟩ :: rest → r.work.dir ≠ none → P.resync = false → P.abortPending = false →
    P.pausePending = false →
    (r.work.isMove = true ∨ P.phase ≠ .waiting →
      exec (.rdyRise p) s = .next (s.setPort p { P with rdyLine := true })) ∧
    (r.work.isMove = false → P.state = .running → P.phase = .waiting → P.skip = false →
      exec (.rdyRise p) s = .next (s.setPort p { P with
        rdyLine := true, phase := .transferring, burstStart := P.position, exchanged := 0, answered := false
        burstLength := min P.config.burstQuota (r.work.length - P.position) })) ∧
    (P.phase ≠ .transferring → exec (.rdyFall p) s = .next (s.setPort p { P with rdyLine := false })) ∧
    (P.state = .running → P.phase = .transferring → P.lookupRequest = false → P.cut = none →
      ¬(s.arbiter.holder = .port p ∧ s.access ≠ none) → (r.work.isMove = true → s.arbiter.holder = .port p) →
      (r.work.dir = some .outbound → r.work.isMove = true → P.inHand ≠ none) →
      ∃ t, exec (.rdyFall p) s = .next t ∧
        t.port p = { P with
          rdyLine := false, inHand := none
          phase := if r.work.dir = some .outbound ∧ 0 < P.exchanged then .confirming else .waiting } ∧
        (∀ q, q ≠ p → t.port q = s.port q) ∧ s.GivenBackBy t p ∧ t.map = s.map ∧ t.reports = s.reports ∧
        t.attn = s.attn ∧ t.time = s.time ∧ t.pending = s.pending)

/-- A burst that wants an inbound word takes it while RDY is present (R67, R68, R92): WORDS PASSED is set, END sets END PASSED,
the stall timer restarts. A MOVE's word is written to the address of its position, through the latch for a mapped record
(R89); a DRAIN's is counted at once, the record going on: short of the burst length the burst goes on, and at it the burst is
over, a pending abort or pause being applied (R40, R94, R96). With none pending the next burst starts in the step of that
same word: that is the model's choice, log 33, for the moments R85 lists do not name it. Without RDY nothing is taken. -/
def Obligations.InboundWordTaken : Prop :=
  ∀ (p : PortId) (s : State) (r : Record) (rest : List Slot) (v : Word) (endMark : Bool), s.Live →
    let P := s.port p
    P.queue = ⟨r, .current⟩ :: rest → r.work.dir = some .inbound →
    let address := r.work.address.toNat + 4 * P.position
    let taken : Port := { P with
      wordsPassed := true, endPassed := P.endPassed || endMark, endTaken := P.endTaken || endMark
      stallTimer := some 0, lines := some ⟨.inbound, v, endMark⟩ }
    (P.rdyLine = false ∨ P.state ≠ .running ∨ P.phase ≠ .transferring →
      exec (.inboundWordTaken p v endMark) s = .next s) ∧
    (P.rdyLine = true → P.state = .running → P.phase = .transferring → P.lookupRequest = false → P.cut = none →
      ¬(s.arbiter.holder = .port p ∧ s.access ≠ none) →
      (r.work.isMove = true → r.work.mapped = false →
        exec (.inboundWordTaken p v endMark) s =
          .next { s.setPort p taken with access := some (.write address v) }) ∧
      (∀ l, r.work.isMove = true → r.work.mapped = true → P.latch = some l →
        exec (.inboundWordTaken p v endMark) s =
          .next { s.setPort p taken with
            access := some (.write (4096 * l.frame.toNat + address % 4096) v) }) ∧
      (r.work.isMove = false → P.endTaken = false → endMark = false → P.moved + 1 < r.work.length →
        P.exchanged + 1 < P.burstLength →
        exec (.inboundWordTaken p v endMark) s =
          .next (s.setPort p { taken with
            moved := P.moved + 1, position := P.position + 1, exchanged := P.exchanged + 1 })) ∧
      (r.work.isMove = false → P.endTaken = false → endMark = false → P.moved + 1 < r.work.length →
        P.burstLength ≤ P.exchanged + 1 → P.msgDir = .inbound → P.skip = false → P.resync = false →
        (s.givenBack p).BurstOver p { taken with
            moved := P.moved + 1, position := P.position + 1, exchanged := P.exchanged + 1, phase := .waiting
            inHand := none } r (exec (.inboundWordTaken p v endMark) s)))

/-- The outbound word in hand is sent while RDY is present (R67, R69, R70): PATTERN for a FILL, the word read for a MOVE, with
END on the last word of a record with CONTINUE clear. The position and the words exchanged rise by 1. Short of the burst
length the burst goes on, a MOVE reading its next word (R89, R93); at the burst length it goes to CONFIRMING and a MOVE
gives the data path back (R94, R96). -/
def Obligations.OutboundWordSent : Prop :=
  ∀ (p : PortId) (s : State) (r : Record) (rest : List Slot) (v : Word), s.Live →
    let P := s.port p
    P.queue = ⟨r, .current⟩ :: rest →
    (∃ length cont, r.work = .fill length v cont) ∨
      (r.work.isMove = true ∧ r.work.dir = some .outbound ∧ P.inHand = some v ∧ s.arbiter.holder = .port p) →
    P.state = .running → P.phase = .transferring → P.lookupRequest = false → P.cut = none →
    ¬(s.arbiter.holder = .port p ∧ s.access ≠ none) →
    let endMark : Bool := r.work.cont == false && decide (P.position + 1 = r.work.length)
    let address := r.work.address.toNat + 4 * (P.position + 1)
    let sent : Port := { P with
      wordsPassed := true, endPassed := P.endPassed || endMark, position := P.position + 1
      exchanged := P.exchanged + 1, inHand := none, stallTimer := some 0
      lines := some ⟨.outbound, v, endMark⟩ }
    (P.rdyLine = false → exec (.outboundWordSent p) s = .next s) ∧
    (P.rdyLine = true → P.exchanged + 1 < P.burstLength → P.position + 1 < r.work.length →
      (r.work.isMove = false → exec (.outboundWordSent p) s = .next (s.setPort p sent)) ∧
      (r.work.isMove = true → r.work.mapped = false →
        exec (.outboundWordSent p) s = .next { s.setPort p sent with access := some (.read address) }) ∧
      (∀ l, r.work.isMove = true → r.work.mapped = true → P.latch = some l →
        exec (.outboundWordSent p) s =
          .next { s.setPort p sent with access := some (.read (4096 * l.frame.toNat + address % 4096)) })) ∧
    (P.rdyLine = true → P.burstLength ≤ P.exchanged + 1 →
      ∃ t, exec (.outboundWordSent p) s = .next t ∧ t.port p = { sent with phase := .confirming } ∧
        (∀ q, q ≠ p → t.port q = s.port q) ∧ s.GivenBackBy t p ∧ t.map = s.map ∧ t.reports = s.reports ∧
        t.attn = s.attn ∧ t.time = s.time ∧ t.pending = s.pending)

/-- Resync discard takes a word while RESYNC and ATTACHED are set, the port is IDLE, RUNNING or HALTED and no data record is
current, and RDY is present: the word is dropped and counted up to FFFFh, and END clears RESYNC (R82, R83). At an
IDLE port the head is then examined, and a data record that waited for that END becomes current (R22). Otherwise nothing is
taken. -/
def Obligations.DiscardTaken : Prop :=
  ∀ (p : PortId) (s : State) (v : Word) (endMark : Bool), s.Live →
    let P := s.port p
    let discards : Prop := P.resync = true ∧ P.attached = true ∧
      (P.state = .idle ∨ P.state = .running ∨ P.state = .halted) ∧ P.currentData = none
    (¬discards ∨ P.rdyLine = false → exec (.discardWord p v endMark) s = .next s) ∧
    (discards → P.rdyLine = true →
      let dropped : Port := { P with
        discarded := min 65535 (P.discarded + 1), resync := !endMark, lines := some ⟨.inbound, v, endMark⟩ }
      (P.state ≠ .idle → P.dirLine = .inbound → exec (.discardWord p v endMark) s = .next (s.setPort p dropped)) ∧
      (P.state = .idle → P.skip = false ∨ s.map.fenceSet.mem p = false → ∀ Q, Port.TakesHead dropped Q →
        exec (.discardWord p v endMark) s = .next (s.setPort p Q)))

/-! ### The data path -/

/-- The end of a MOVE burst's host access (R92, R93, R95): a word read comes into hand, or with RDY absent is not sent, the
transfer phase ending as a yield (R87, R94); a word written is counted, here with the record going on, and at the burst
length or with RDY absent the burst is over and the data path given back (R96, R97). An error response ends the record BUS
ERROR. A cut burst ends with the access: its record DETACHED or PERIPH FAULT, an inbound word that reached memory counted
first (R73), or, cut by an RPT, rewound or ended REPEAT LIMIT, the word read not sent (R77). A word taken with END
counts as END taken where its write ends with an error (R54); that it does so in a cut burst too, whose record ends DETACHED
or PERIPH FAULT, is the model's inference, log 13. A RESETTING port is released into DISABLED, at the end of its access or
without one (R38, R98). -/
def Obligations.HostAccessEnds : Prop :=
  ∀ (p : PortId) (s : State) (a : Access), s.Live → s.arbiter.holder = .port p → s.access = some a →
    let P := s.port p
    let counted : Port := { P with
      moved := P.moved + 1, position := P.position + 1, exchanged := P.exchanged + 1 }
    (∀ outcome, P.state = .resetting →
      let released : State := { s.setPort p { P with state := .disabled } with
        arbiter := { s.arbiter with holder := .none }, access := none, win := { s.win with resetBusy := false } }
      exec (.hostAccessEnd outcome) s = .next released ∧
      exec (.resettingRelease p) { s with access := none } = .next released ∧
      exec (.resettingRelease p) s = .next s) ∧
    (∀ (r : Record) (rest : List Slot), P.state = .running → P.phase = .transferring → P.skip = false →
      P.resync = false → P.queue = ⟨r, .current⟩ :: rest → (∀ slot ∈ rest, slot.stage = .queued) →
      r.work.dir = some P.msgDir →
      let waits (Q : Port) : Port := { Q with phase := .waiting, inHand := none, lookupRequest := false, cut := none }
      (∀ v, P.cut = none → r.work.dir = some .outbound →
        (P.rdyLine = true → exec (.hostAccessEnd (.data v)) s =
          .next { s.setPort p { P with inHand := some v } with access := none }) ∧
        (P.rdyLine = false → 0 < P.exchanged → exec (.hostAccessEnd (.data v)) s =
          .next ((s.givenBack p).setPort p { P with phase := .confirming, inHand := none })) ∧
        (P.rdyLine = false → P.exchanged = 0 →
          (s.givenBack p).BurstOver p (waits P) r (exec (.hostAccessEnd (.data v)) s))) ∧
      (∀ v, P.cut = none → r.work.dir = some .inbound → P.endTaken = false → P.moved + 1 < r.work.length →
        (P.exchanged + 1 < P.burstLength → P.rdyLine = true →
          exec (.hostAccessEnd (.data v)) s = .next { s.setPort p counted with access := none }) ∧
        (P.burstLength ≤ P.exchanged + 1 ∨ P.rdyLine = false →
          (s.givenBack p).BurstOver p (waits counted) r (exec (.hostAccessEnd (.data v)) s))) ∧
      (∀ outcome, P.cut = some .repeatRequest → r.work.dir = some .outbound → P.position < r.work.length →
        (P.repeats < P.config.repeatLimit.toNat →
          (s.givenBack p).BurstOver p
            (waits { P with repeats := P.repeats + 1, position := P.burstStart, stallTimer := some 0 }) r
            (exec (.hostAccessEnd outcome) s)) ∧
        (P.config.repeatLimit.toNat ≤ P.repeats →
          ∃ t, exec (.hostAccessEnd outcome) s = .next t ∧ s.FailsAt t p P r .repeatLimit .absent)) ∧
      (P.cut = none → ∃ t, exec (.hostAccessEnd .error) s = .next t ∧ s.FailsAt t p P r .busError .absent) ∧
      (∀ (v : Word) (c : Cut) (st : Status), P.cut = some c →
        (c = .detached ∧ st = .detached) ∨ (c = .periphFault ∧ st = .periphFault) →
        (∃ t, exec (.hostAccessEnd .error) s = .next t ∧ s.FailsAt t p P r st .absent) ∧
        (∃ t, exec (.hostAccessEnd (.data v)) s = .next t ∧
          s.FailsAt t p (if r.work.dir = some .inbound then counted else P) r st .absent)))

/-- How an inbound record ends at a counted word that carried END or reached LENGTH (Table 3-2, R50, R51, R94): a MOVE's with
the write of its word, a DRAIN's as its word is taken. At LENGTH it is DONE with END or with CONTINUE set and OVERRUN
without either; short of LENGTH END makes it SHORT with SHORT-OK and UNDERRUN without. SHORT or END before the closing
record sets SKIP in place of MSG-OPEN, and the records behind it then retire SKIPPED, the run ending with CONTINUE clear (R22,
R23, R61). A report that finds no free entry blocks the port (R62). -/
def Obligations.InboundRecordEnds : Prop :=
  ∀ (p : PortId) (s : State) (v : Word) (r : Record) (rest : List Slot), s.Live →
    let P := s.port p
    P.state = .running → P.phase = .transferring → P.cut = none → P.resync = false →
    P.msgOpen = true → P.skip = false → P.queue = ⟨r, .current⟩ :: rest →
    (∀ slot ∈ rest, slot.stage = .queued) → r.work.dir = some .inbound →
    let ends (counted : Port) (out : Host.Outcome State Fault Refusal) : Prop :=
      let full : Prop := r.work.length ≤ counted.moved
      let retires (st : Status) : Prop :=
        { s.givenBack p with map := s.map.leaveFence p }.Retires p
          { counted.recordGone with
            msgOpen := r.work.cont && !counted.endTaken, skip := r.work.cont && counted.endTaken
            wordsPassed := counted.wordsPassed && r.work.cont, endPassed := counted.endPassed && r.work.cont }
          r (.record p st r.tag counted.moved counted.endTaken 0 r.urgent .absent) out
      let fails (st : Status) : Prop := ∃ t, out = .next t ∧ s.FailsAt t p counted r st .absent
      (full → counted.endTaken = true ∨ r.work.cont = true → retires .done) ∧
      (full → counted.endTaken = false → r.work.cont = false → fails .overrun) ∧
      (¬full → counted.endTaken = true → r.work.shortOk = true → retires .short) ∧
      (¬full → counted.endTaken = true → r.work.shortOk = false → fails .underrun)
    (∀ a, s.arbiter.holder = .port p → s.access = some a →
      ends { P with moved := P.moved + 1, position := P.position + 1, exchanged := P.exchanged + 1 }
        (exec (.hostAccessEnd (.data v)) s)) ∧
    (∀ endMark : Bool, r.work.isMove = false → P.rdyLine = true → P.lookupRequest = false →
      ¬(s.arbiter.holder = .port p ∧ s.access ≠ none) →
      ends { P with
          moved := P.moved + 1, position := P.position + 1, exchanged := P.exchanged + 1
          wordsPassed := true, endPassed := P.endPassed || endMark, endTaken := P.endTaken || endMark
          stallTimer := some 0, lines := some ⟨.inbound, v, endMark⟩ }
        (exec (.inboundWordTaken p v endMark) s))

/-- GRANT, taken while HOLDER is NONE (R104): a standing patch fetch request first; then URGENT ports ahead of NORMAL ones, but
for a NORMAL one after four URGENT grants (R105); within the class the first port after its pointer, upwards and wrapping
(R106). A port's grant moves its class's pointer and the urgent-run counter (R107) and starts its burst: the length is the
least of BURST QUOTA, the words remaining and the words to the page boundary, and a mapped record whose page the latch does
not serve requests a lookup, an outbound one otherwise reading its first word (R85, R88 to R91, R93). -/
def Obligations.GrantTaken : Prop :=
  ∀ s : State, s.Live →
    let asks (c : PortClass) (q : PortId) : Prop := (s.port q).requests = true ∧ (s.port q).config.cls = c
    let fetchAsks : Prop := ∃ f ∈ s.map.engine, f.fetching = false
    let steps (pointer q : PortId) : Nat := (q.val + 7 - pointer.val) % 8
    let pointer (c : PortClass) : PortId := if c = .urgent then s.arbiter.urgentPointer else s.arbiter.normalPointer
    let noneOf (c : PortClass) : Prop := ∀ q, ¬asks c q
    (s.arbiter.holder ≠ .none → exec .grant s = .next s) ∧
    (s.arbiter.holder = .none →
      (∀ f, s.map.engine = some f → f.fetching = false →
        exec .grant s = .next { s with
          arbiter := { s.arbiter with holder := .patchFetch }
          map := { s.map with engine := some { f with fetching := true } }
          access := some (.read f.address.toNat) }) ∧
      (¬fetchAsks → noneOf .urgent → noneOf .normal → exec .grant s = .next s) ∧
      (∀ (c : PortClass) (p : PortId) (r : Record) (rest : List Slot), ¬fetchAsks → asks c p →
        (c = .urgent → s.arbiter.urgentRun = 4 → noneOf .normal) →
        (c = .normal → noneOf .urgent ∨ s.arbiter.urgentRun = 4) →
        (∀ q, asks c q → steps (pointer c) p ≤ steps (pointer c) q) →
        (s.port p).queue = ⟨r, .current⟩ :: rest →
        let P := s.port p
        let address := r.work.address.toNat + 4 * P.position
        let settled : Prop := r.work.mapped = true → ∃ l ∈ P.latch, l.page = address / 4096
        ∃ t, exec .grant s = .next t ∧
          t.arbiter.holder = .port p ∧
          (c = .urgent → t.arbiter.urgentPointer = p ∧ t.arbiter.normalPointer = s.arbiter.normalPointer) ∧
          (c = .normal → t.arbiter.normalPointer = p ∧ t.arbiter.urgentPointer = s.arbiter.urgentPointer ∧
            t.arbiter.urgentRun = 0) ∧
          (c = .urgent → noneOf .normal → t.arbiter.urgentRun = 0) ∧
          (c = .urgent → ¬noneOf .normal → t.arbiter.urgentRun = s.arbiter.urgentRun + 1) ∧
          t.port p = { P with
            phase := .transferring, burstStart := P.position, exchanged := 0, answered := false
            burstLength := min (min P.config.burstQuota (r.work.length - P.position)) ((4096 - address % 4096) / 4)
            lookupRequest := (t.port p).lookupRequest } ∧
          (¬settled → (t.port p).lookupRequest = true ∧ t.access = s.access) ∧
          (settled → (t.port p).lookupRequest = P.lookupRequest ∧
            (r.work.dir = some .inbound → t.access = s.access) ∧
            (r.work.dir = some .outbound → r.work.mapped = false → t.access = some (.read address)) ∧
            (∀ l, r.work.dir = some .outbound → r.work.mapped = true → P.latch = some l →
              t.access = some (.read (4096 * l.frame.toNat + address % 4096)))) ∧
          (∀ q, q ≠ p → t.port q = s.port q) ∧ t.win = s.win ∧ t.map = s.map ∧ t.reports = s.reports ∧
          t.attn = s.attn ∧ t.time = s.time ∧ t.pending = s.pending))

/-! ### Lookups and patches -/

/-- A standing lookup request is taken whole (R115, R116): a page not below SPAN is OUTSIDE WINDOW; otherwise the entry BASE +
page is read, a detection, and a POISONED, invalid, write-denied or read-denied entry faults in that order. A fault ends
the record MAP FAULT with the cause and the page (R91); otherwise the latch is loaded, a valid one replaced leaving the
fence set, and an outbound burst reads its first word (R89, R118). -/
def Obligations.LookupTaken : Prop :=
  ∀ (p : PortId) (s : State) (r : Record) (rest : List Slot) (d : Direction), s.Live →
    let P := s.port p
    P.queue = ⟨r, .current⟩ :: rest → (∀ slot ∈ rest, slot.stage = .queued) → r.work.dir = some d →
    (P.lookupRequest = false → exec (.lookup p) s = .next s) ∧
    (P.lookupRequest = true →
      let page := (r.work.address.toNat + 4 * P.burstStart) / 4096
      let index := P.window.base + page
      let looked : State := { s with map := s.map.detect index }
      let e := (s.map.entry index).detected
      let allowed : Bool := if d = .inbound then e.contents.write else e.contents.read
      let faults (s' : State) (cause : LookupCause) : Prop :=
        ∃ t, exec (.lookup p) s = .next t ∧ s'.FailsAt t p P r .mapFault (.mapFault cause page)
      (P.window.span ≤ page → faults s .outsideWindow) ∧
      (page < P.window.span → s.map.wf →
        (e.poisoned = true → faults looked .poisoned) ∧
        (e.poisoned = false → e.contents.valid = false → faults looked .invalid) ∧
        (e.poisoned = false → e.contents.valid = true → allowed = false →
          faults looked (if d = .inbound then .noWrite else .noRead)) ∧
        (e.poisoned = false → e.contents.valid = true → allowed = true → r.work.isMove = true →
          r.work.mapped = true → P.rdyLine = true → P.state = .running → P.phase = .transferring →
          exec (.lookup p) s = .next { s.setPort p { P with
              lookupRequest := false, latch := some ⟨page, e.contents.frame⟩ } with
            map := if P.latch.isSome then (s.map.detect index).leaveFence p else s.map.detect index
            access := if d = .outbound then some (.read
                (4096 * e.contents.frame.toNat + (r.work.address.toNat + 4 * P.position) % 4096))
              else s.access })))

/-- The patch fetch reads its block word by word (R133, R134): a header with COUNT 1 to 32, the block inside the 32-bit space and a
defined FORMAT is kept; an index word resolves to an entry, through BASE and SPAN for a RELATIVE block; an entry word is
staged with its index while pairs are left. Each sets the read of the next word, and the map is not written. -/
def Obligations.PatchFetchReads : Prop :=
  ∀ (s : State) (f : Flight) (w : Word) (a : Access), s.Live → s.arbiter.holder = .patchFetch → s.access = some a →
    s.map.engine = some f → f.fetching = true →
    let goesOn (f' : Flight) : Prop := exec (.patchReadEnd (.data w)) s = .next { s with
      map := { s.map with engine := some { f' with wordsRead := f.wordsRead + 1 } }
      access := some (.read (f.address.toNat + 4 * (f.wordsRead + 1))) }
    (f.wordsRead = 0 → 1 ≤ w.toNat % 256 → w.toNat % 256 ≤ 32 →
      f.address.toNat + 4 * (1 + 2 * (w.toNat % 256)) ≤ 4294967296 → w.toNat / 256 % 4 ≤ 1 →
      goesOn { f with count := w.toNat % 256, relative := w.toNat / 256 % 4 == 1 }) ∧
    (f.wordsRead ≠ 0 → f.index = none → f.relative = false → w.toNat < 1024 →
      goesOn { f with index := some w.toNat }) ∧
    (f.wordsRead ≠ 0 → f.index = none → f.relative = true → w.toNat < f.span → f.base + w.toNat < 1024 →
      goesOn { f with index := some (f.base + w.toNat) }) ∧
    (∀ i, f.wordsRead ≠ 0 → f.index = some i → f.staging.length + 1 < f.count →
      goesOn { f with index := none, staging := f.staging ++
        [(i, ⟨BitVec.ofNat 20 (w.toNat / 4096), w.getLsbD 0, w.getLsbD 1, w.getLsbD 2⟩)] })

/-- The end of a patch (R132, R135, R136): the data path is given back, PATCH END is set, the outcome recorded, and the engine
is FREE or takes the claim of the lowest-numbered waiting port. The last entry word commits every staged pair in order, a
later pair over an earlier one; an error response, a bad header or a bad index rejects it, no entry written. A PATCH record
that it was claimed for retires: PATCHED, or PATCH REJECTED with the cause, its port HALTED, and BLOCKED where the report
finds no free entry (R61, R62). For a host patch, and for a record that was dropped, none retires. -/
def Obligations.PatchEnds : Prop :=
  ∀ (s : State) (f : Flight) (a : Access) (engine : Option Flight) (waiting : PortSet), s.Live →
    s.arbiter.holder = .patchFetch → s.access = some a → s.map.engine = some f → f.fetching = true → s.map.wf →
    s.NextClaim engine waiting →
    let ended (last : PatchOutcome) (entries : List (Nat × MapEntry)) : State := { s with
      arbiter := { s.arbiter with holder := .none }, access := none, win := { s.win with resetBusy := false }
      map := { s.map with
        engine := engine, waiting := waiting, lastOutcome := last, patchEnd := true, entries := entries } }
    let noRecord : Prop := f.origin = .host ∨ f.owned = false
    let claimant (p : PortId) (r : Record) (rest : List Slot) : Prop := f.origin = .port p ∧ f.owned = true ∧
      (s.port p).state = .running ∧ (s.port p).queue = ⟨r, .current⟩ :: rest ∧ (∃ b, r.work = .patch b) ∧
      ∀ slot ∈ rest, slot.stage = .queued
    let applies (outcome : AccessOutcome) (entries : List (Nat × MapEntry)) : Prop :=
      let t := ended (.applied f.count f.origin) entries
      (noRecord → exec (.patchReadEnd outcome) s = .next t) ∧
      (∀ p r rest, claimant p r rest → { t with map := t.map.leaveFence p }.Retires p (s.port p).recordGone r
        (.record p .patched r.tag 0 false 0 r.urgent .absent) (exec (.patchReadEnd outcome) s))
    let rejects (outcome : AccessOutcome) (cause : PatchCause) : Prop :=
      let t := ended (.rejected cause f.staging.length f.origin) s.map.entries
      (noRecord → exec (.patchReadEnd outcome) s = .next t) ∧
      (∀ p r rest, claimant p r rest →
        let gone := (s.port p).recordGone
        let rep : Report := .record p .patchRejected r.tag 0 false 0 r.urgent (.patch cause)
        let leaves (Q : Port) (reports : ReportQueue) : Prop := exec (.patchReadEnd outcome) s =
          .next { t.setPort p Q with map := t.map.leaveFence p, reports := reports }
        (s.reports.entries.length < 32 →
          leaves { gone with
              state := .halted, haltEvent := true, pausePending := false
              dirLine := if gone.resync && gone.attached then .inbound else gone.dirLine }
            (s.reports.post rep)) ∧
        (32 ≤ s.reports.entries.length →
          leaves { gone with queue := ⟨r, .ended⟩ :: rest, state := .blocked, heldReport := some rep }
            { s.reports with blocked := s.reports.blocked ++ [p] }))
    rejects .error .busError ∧
    (∀ w : Word, f.wordsRead = 0 →
      (w.toNat % 256 = 0 ∨ 32 < w.toNat % 256 ∨ 4294967296 < f.address.toNat + 4 * (1 + 2 * (w.toNat % 256)) →
        rejects (.data w) .badCount) ∧
      (1 ≤ w.toNat % 256 → w.toNat % 256 ≤ 32 → f.address.toNat + 4 * (1 + 2 * (w.toNat % 256)) ≤ 4294967296 →
        2 ≤ w.toNat / 256 % 4 → rejects (.data w) .badFormat)) ∧
    (∀ w : Word, f.wordsRead ≠ 0 → f.index = none →
      (f.relative = false → 1024 ≤ w.toNat → rejects (.data w) .badIndex) ∧
      (f.relative = true → f.span ≤ w.toNat ∨ 1024 ≤ f.base + w.toNat → rejects (.data w) .badIndex)) ∧
    (∀ (w : Word) (i : Nat), f.wordsRead ≠ 0 → f.index = some i → f.count ≤ f.staging.length + 1 →
      let pairs := f.staging ++
        [(i, ⟨BitVec.ofNat 20 (w.toNat / 4096), w.getLsbD 0, w.getLsbD 1, w.getLsbD 2⟩)]
      ∃ entries, applies (.data w) entries ∧
        (∀ j, (∀ pair ∈ pairs, pair.1 ≠ j) → entryAt entries j = s.map.entry j) ∧
        ∀ (before after : List (Nat × MapContents)) (j : Nat) (c : MapContents), pairs = before ++ (j, c) :: after →
          (∀ pair ∈ after, pair.1 ≠ j) → entryAt entries j = ⟨c, false, .none⟩)

/-! ### Timers -/

/-- STALL_EXPIRY ends the current data record STALLED once its timer has counted STALL LIMIT time units, and is not taken
before (R81); HOLDOFF_EXPIRY raises REPORT DUE once its timer has counted HOLDOFF (R149, R150); CAN_RELEASE deasserts CAN
once the second 1 µs step after it was last driven has passed, and is not taken before (R79); a time unit step counts the
stall timers that run and the holdoff timer, each stopping at its limit (R80, R150, log 8). -/
def Obligations.TimersTaken : Prop :=
  ∀ (p : PortId) (s : State), s.Live →
    let counts (P : Port) : Prop := 1 ≤ P.config.stallLimit.toNat ∧ P.state = .running ∧ P.currentData ≠ none ∧
      ((P.phase = .waiting ∧ P.rdyLine = false) ∨ P.phase = .confirming)
    let P := s.port p
    (∀ n, P.stallTimer = some n → ¬counts P ∨ n < P.config.stallLimit.toNat →
      exec (.stallExpiry p) s = .next s) ∧
    (∀ (n : Nat) (r : Record) (rest : List Slot), P.stallTimer = some n → counts P → P.config.stallLimit.toNat ≤ n →
      P.queue = ⟨r, .current⟩ :: rest → (∀ slot ∈ rest, slot.stage = .queued) →
      ∃ t, exec (.stallExpiry p) s = .next t ∧ s.FailsAt t p P r .stalled .absent) ∧
    (∀ n, s.reports.holdoffTimer = some n →
      (s.reports.holdoff ≤ n → exec .holdoffExpiry s = .next { s with reports := { s.reports with
        entries := s.reports.entries.map fun e => { e with announced := true }
        reportDue := true, holdoffTimer := none } }) ∧
      (n < s.reports.holdoff → exec .holdoffExpiry s = .next s)) ∧
    (∀ k, P.can = some k → 2 ≤ k → exec (.canRelease p) s = .next (s.setPort p { P with can := none })) ∧
    ((∀ k, P.can = some k → k < 2) → exec (.canRelease p) s = .next s) ∧
    (∃ t, exec .timeUnitStep s = .next t ∧
      (∀ q, (counts (s.port q) → t.port q = { s.port q with
          stallTimer := (s.port q).stallTimer.map fun n => min (n + 1) (s.port q).config.stallLimit.toNat }) ∧
        (¬counts (s.port q) → t.port q = s.port q)) ∧
      t.reports = { s.reports with
        holdoffTimer := s.reports.holdoffTimer.map fun n => min (n + 1) s.reports.holdoff } ∧
      t.win = s.win ∧ t.arbiter = s.arbiter ∧ t.access = s.access ∧ t.map = s.map ∧ t.attn = s.attn ∧
      t.time = s.time ∧ t.pending = s.pending)

/-! ### What every step keeps -/

/-- The level stack keeps each level above the one it interrupted, down to BASE (R155, law 12). -/
def Obligations.LevelStackKept : Prop :=
  ∀ s t : State, s.attn.Law → step s = .next t → t.attn.Law

/-- The report queue keeps to 32 entries, announced ones ahead of unannounced ones, the holdoff timer running exactly while an
entry is unannounced, and THRESHOLD and HOLDOFF in range (R141, R145, R149 to R151, law 5). -/
def Obligations.ReportQueueLawKept : Prop :=
  ∀ s t : State, s.reports.Law → step s = .next t → t.reports.Law

/-- The map keeps its canonical form, its indices and counts their ranges, and the fence its law: pending exactly while its set
holds a port, and every port of the set holds a valid latch (R111, R121, R125, R134, R138, R139, law 11). -/
def Obligations.MapLawsKept : Prop :=
  ∀ s t : State, s.map.TableLaw → s.FenceLaw → step s = .next t → t.map.TableLaw ∧ t.FenceLaw

/-- The pool keeps to 64 occupied slots (R11, R14, law 1). -/
def Obligations.PoolLawKept : Prop :=
  ∀ s t : State, s.PoolLaw → step s = .next t → t.PoolLaw

/-- The blocked list holds each BLOCKED port once and no other port, and is empty unless the report queue is full; a report is
held exactly by a BLOCKED port, and the stages of a queue fit its port's state (R14, R21, R62, R143, laws 7 and 8). -/
def Obligations.BlockedLawKept : Prop :=
  ∀ s t : State, (∀ p, (s.port p).QueueLaw) → s.BlockedLaw → s.reports.Law → step s = .next t →
    (∀ p, (t.port p).QueueLaw) ∧ t.BlockedLaw ∧ t.reports.Law

/-- Every law of the device that one state can show is kept by every step. -/
def Obligations.SoundKept : Prop :=
  ∀ s t : State, s.Sound → step s = .next t → t.Sound

/-- A command, a register write or an event of one port changes no other port's context (R16, R24). -/
def Obligations.OtherPortsUntouched : Prop :=
  ∀ (c : Instr) (p q : PortId) (s t : State), ReachesPort c p → q ≠ p → exec c s = .next t → t.port q = s.port q
end

