-- ==== Sys2Proof/Laws/State.lean ====
section
/-! SUPPORT. What each update of the state leaves: one lemma for each block and update, so that no later proof unfolds a
record update. -/

namespace Sys2Proof.Machine

/-! ### One port of the state -/

theorem State.ext_ports {s t : State} (hports : ∀ p, s.port p = t.port p) (hwin : s.win = t.win)
    (harb : s.arbiter = t.arbiter) (hacc : s.access = t.access) (hmap : s.map = t.map) (hrep : s.reports = t.reports)
    (hattn : s.attn = t.attn) (htime : s.time = t.time) (hpend : s.pending = t.pending) : s = t := by
  cases s
  cases t
  simp only [State.mk.injEq]
  simp only at hwin harb hacc hmap hrep hattn htime hpend
  exact ⟨hwin, Vector.ext fun i hi => hports ⟨i, hi⟩, harb, hacc, hmap, hrep, hattn, htime, hpend⟩

@[simp] theorem State.port_setPort_same (s : State) (p : PortId) (P : Port) : (s.setPort p P).port p = P := by
  simp [State.port, State.setPort]

@[simp] theorem State.port_setPort_ne (s : State) {p q : PortId} (P : Port) (h : q ≠ p) :
    (s.setPort p P).port q = s.port q := by
  have h' : p.val ≠ q.val := fun e => h (Fin.ext e.symm)
  simp [State.port, State.setPort, h']

theorem State.port_setPort (s : State) (p q : PortId) (P : Port) :
    (s.setPort p P).port q = if q = p then P else s.port q := by
  by_cases h : q = p
  · subst h; simp
  · simp [h]

@[simp] theorem State.setPort_win (s : State) (p : PortId) (P : Port) : (s.setPort p P).win = s.win := rfl
@[simp] theorem State.setPort_arbiter (s : State) (p : PortId) (P : Port) : (s.setPort p P).arbiter = s.arbiter := rfl
@[simp] theorem State.setPort_access (s : State) (p : PortId) (P : Port) : (s.setPort p P).access = s.access := rfl
@[simp] theorem State.setPort_map (s : State) (p : PortId) (P : Port) : (s.setPort p P).map = s.map := rfl
@[simp] theorem State.setPort_reports (s : State) (p : PortId) (P : Port) : (s.setPort p P).reports = s.reports := rfl
@[simp] theorem State.setPort_attn (s : State) (p : PortId) (P : Port) : (s.setPort p P).attn = s.attn := rfl
@[simp] theorem State.setPort_time (s : State) (p : PortId) (P : Port) : (s.setPort p P).time = s.time := rfl
@[simp] theorem State.setPort_pending (s : State) (p : PortId) (P : Port) : (s.setPort p P).pending = s.pending := rfl

@[simp] theorem State.setPort_setPort (s : State) (p : PortId) (P Q : Port) :
    (s.setPort p P).setPort p Q = s.setPort p Q := by
  simp [State.setPort]

@[simp] theorem State.setPort_port (s : State) (p : PortId) : s.setPort p (s.port p) = s := by
  cases s
  simp [State.setPort, State.port]

@[simp] theorem State.port_modPort_same (s : State) (p : PortId) (f : Port → Port) :
    (s.modPort p f).port p = f (s.port p) := by
  simp [State.modPort]

@[simp] theorem State.port_modPort_ne (s : State) {p q : PortId} (f : Port → Port) (h : q ≠ p) :
    (s.modPort p f).port q = s.port q := by
  simp [State.modPort, h]

theorem State.port_modPort (s : State) (p q : PortId) (f : Port → Port) :
    (s.modPort p f).port q = if q = p then f (s.port p) else s.port q := by
  simp [State.modPort, State.port_setPort]

@[simp] theorem State.modPort_win (s : State) (p : PortId) (f : Port → Port) : (s.modPort p f).win = s.win := rfl
@[simp] theorem State.modPort_arbiter (s : State) (p : PortId) (f : Port → Port) :
    (s.modPort p f).arbiter = s.arbiter := rfl
@[simp] theorem State.modPort_access (s : State) (p : PortId) (f : Port → Port) :
    (s.modPort p f).access = s.access := rfl
@[simp] theorem State.modPort_map (s : State) (p : PortId) (f : Port → Port) : (s.modPort p f).map = s.map := rfl
@[simp] theorem State.modPort_reports (s : State) (p : PortId) (f : Port → Port) :
    (s.modPort p f).reports = s.reports := rfl
@[simp] theorem State.modPort_attn (s : State) (p : PortId) (f : Port → Port) : (s.modPort p f).attn = s.attn := rfl
@[simp] theorem State.modPort_time (s : State) (p : PortId) (f : Port → Port) : (s.modPort p f).time = s.time := rfl
@[simp] theorem State.modPort_pending (s : State) (p : PortId) (f : Port → Port) :
    (s.modPort p f).pending = s.pending := rfl

@[simp] theorem State.modPort_modPort (s : State) (p : PortId) (f g : Port → Port) :
    (s.modPort p f).modPort p g = s.modPort p fun P => g (f P) := by
  simp [State.modPort]

theorem State.modPort_eq (s : State) (p : PortId) (f : Port → Port) : s.modPort p f = s.setPort p (f (s.port p)) := rfl

@[simp] theorem State.modPort_setPort (s : State) (p : PortId) (P : Port) (f : Port → Port) :
    (s.setPort p P).modPort p f = s.setPort p (f P) := by
  simp [State.modPort]

/-! ### A port read through an update of another block -/

@[simp] theorem State.port_mk (w : HostWindow) (ps : Vector Port 8) (a : Arbiter) (ac : Option Access) (m : MapUnit)
    (q : ReportQueue) (at' : Attention) (t : TimeBase) (cs : List Instr) (p : PortId) :
    (State.mk w ps a ac m q at' t cs).port p = ps[p.val] := rfl

@[simp] theorem State.getElem_ports (s : State) (p : PortId) : s.ports[p.val] = s.port p := rfl

/-! ### All ports -/

@[simp] theorem State.port_mapPorts (s : State) (f : PortId → Port → Port) (p : PortId) :
    (s.mapPorts f).port p = f p (s.port p) := by
  simp only [State.mapPorts, State.port_mk, Vector.getElem_ofFn, Fin.eta]

@[simp] theorem State.mapPorts_win (s : State) (f : PortId → Port → Port) : (s.mapPorts f).win = s.win := rfl
@[simp] theorem State.mapPorts_arbiter (s : State) (f : PortId → Port → Port) :
    (s.mapPorts f).arbiter = s.arbiter := rfl
@[simp] theorem State.mapPorts_access (s : State) (f : PortId → Port → Port) : (s.mapPorts f).access = s.access := rfl
@[simp] theorem State.mapPorts_map (s : State) (f : PortId → Port → Port) : (s.mapPorts f).map = s.map := rfl
@[simp] theorem State.mapPorts_reports (s : State) (f : PortId → Port → Port) :
    (s.mapPorts f).reports = s.reports := rfl
@[simp] theorem State.mapPorts_attn (s : State) (f : PortId → Port → Port) : (s.mapPorts f).attn = s.attn := rfl
@[simp] theorem State.mapPorts_time (s : State) (f : PortId → Port → Port) : (s.mapPorts f).time = s.time := rfl
@[simp] theorem State.mapPorts_pending (s : State) (f : PortId → Port → Port) :
    (s.mapPorts f).pending = s.pending := rfl

/-! ### RESULT, WRITE IGNORED and the word read -/

@[simp] theorem State.refuse_port (s : State) (op : BitVec 4) (why : Reason) (v : Nat) (p : PortId) :
    (s.refuse op why v).port p = s.port p := rfl
@[simp] theorem State.refuse_arbiter (s : State) (op : BitVec 4) (why : Reason) (v : Nat) :
    (s.refuse op why v).arbiter = s.arbiter := rfl
@[simp] theorem State.refuse_access (s : State) (op : BitVec 4) (why : Reason) (v : Nat) :
    (s.refuse op why v).access = s.access := rfl
@[simp] theorem State.refuse_map (s : State) (op : BitVec 4) (why : Reason) (v : Nat) :
    (s.refuse op why v).map = s.map := rfl
@[simp] theorem State.refuse_reports (s : State) (op : BitVec 4) (why : Reason) (v : Nat) :
    (s.refuse op why v).reports = s.reports := rfl
@[simp] theorem State.refuse_attn (s : State) (op : BitVec 4) (why : Reason) (v : Nat) :
    (s.refuse op why v).attn = s.attn := rfl

@[simp] theorem State.refuseAt_port (s : State) (op : BitVec 4) (why : Reason) (q p : PortId) :
    (s.refuseAt op why q).port p = s.port p := rfl
@[simp] theorem State.refuseAt_arbiter (s : State) (op : BitVec 4) (why : Reason) (q : PortId) :
    (s.refuseAt op why q).arbiter = s.arbiter := rfl
@[simp] theorem State.refuseAt_access (s : State) (op : BitVec 4) (why : Reason) (q : PortId) :
    (s.refuseAt op why q).access = s.access := rfl
@[simp] theorem State.refuseAt_map (s : State) (op : BitVec 4) (why : Reason) (q : PortId) :
    (s.refuseAt op why q).map = s.map := rfl
@[simp] theorem State.refuseAt_reports (s : State) (op : BitVec 4) (why : Reason) (q : PortId) :
    (s.refuseAt op why q).reports = s.reports := rfl
@[simp] theorem State.refuseAt_attn (s : State) (op : BitVec 4) (why : Reason) (q : PortId) :
    (s.refuseAt op why q).attn = s.attn := rfl

@[simp] theorem State.accept_port (s : State) (op : BitVec 4) (v : Nat) (p : PortId) :
    (s.accept op v).port p = s.port p := rfl
@[simp] theorem State.accept_arbiter (s : State) (op : BitVec 4) (v : Nat) : (s.accept op v).arbiter = s.arbiter := rfl
@[simp] theorem State.accept_access (s : State) (op : BitVec 4) (v : Nat) : (s.accept op v).access = s.access := rfl
@[simp] theorem State.accept_map (s : State) (op : BitVec 4) (v : Nat) : (s.accept op v).map = s.map := rfl
@[simp] theorem State.accept_reports (s : State) (op : BitVec 4) (v : Nat) : (s.accept op v).reports = s.reports := rfl
@[simp] theorem State.accept_attn (s : State) (op : BitVec 4) (v : Nat) : (s.accept op v).attn = s.attn := rfl

@[simp] theorem State.ignoreWrite_port (s : State) (p : PortId) : s.ignoreWrite.port p = s.port p := rfl
@[simp] theorem State.ignoreWrite_arbiter (s : State) : s.ignoreWrite.arbiter = s.arbiter := rfl
@[simp] theorem State.ignoreWrite_access (s : State) : s.ignoreWrite.access = s.access := rfl
@[simp] theorem State.ignoreWrite_map (s : State) : s.ignoreWrite.map = s.map := rfl
@[simp] theorem State.ignoreWrite_reports (s : State) : s.ignoreWrite.reports = s.reports := rfl
@[simp] theorem State.ignoreWrite_attn (s : State) : s.ignoreWrite.attn = s.attn := rfl

@[simp] theorem State.answerRead_port (s : State) (w : Word) (p : PortId) : (s.answerRead w).port p = s.port p := rfl
@[simp] theorem State.answerRead_arbiter (s : State) (w : Word) : (s.answerRead w).arbiter = s.arbiter := rfl
@[simp] theorem State.answerRead_access (s : State) (w : Word) : (s.answerRead w).access = s.access := rfl
@[simp] theorem State.answerRead_map (s : State) (w : Word) : (s.answerRead w).map = s.map := rfl
@[simp] theorem State.answerRead_reports (s : State) (w : Word) : (s.answerRead w).reports = s.reports := rfl
@[simp] theorem State.answerRead_attn (s : State) (w : Word) : (s.answerRead w).attn = s.attn := rfl

/-! ### The release of the data path -/

@[simp] theorem State.release_port (s : State) (p : PortId) : s.release.port p = s.port p := rfl
@[simp] theorem State.release_map (s : State) : s.release.map = s.map := rfl
@[simp] theorem State.release_reports (s : State) : s.release.reports = s.reports := rfl
@[simp] theorem State.release_attn (s : State) : s.release.attn = s.attn := rfl
@[simp] theorem State.release_time (s : State) : s.release.time = s.time := rfl
@[simp] theorem State.release_pending (s : State) : s.release.pending = s.pending := rfl
@[simp] theorem State.release_access (s : State) : s.release.access = none := rfl
@[simp] theorem State.release_holder (s : State) : s.release.arbiter.holder = .none := rfl

@[simp] theorem State.releaseBy_port (s : State) (q p : PortId) : (s.releaseBy q).port p = s.port p := by
  unfold State.releaseBy
  split <;> rfl
@[simp] theorem State.releaseBy_map (s : State) (q : PortId) : (s.releaseBy q).map = s.map := by
  unfold State.releaseBy
  split <;> rfl
@[simp] theorem State.releaseBy_reports (s : State) (q : PortId) : (s.releaseBy q).reports = s.reports := by
  unfold State.releaseBy
  split <;> rfl
@[simp] theorem State.releaseBy_attn (s : State) (q : PortId) : (s.releaseBy q).attn = s.attn := by
  unfold State.releaseBy
  split <;> rfl
@[simp] theorem State.releaseBy_time (s : State) (q : PortId) : (s.releaseBy q).time = s.time := by
  unfold State.releaseBy
  split <;> rfl
@[simp] theorem State.releaseBy_pending (s : State) (q : PortId) : (s.releaseBy q).pending = s.pending := by
  unfold State.releaseBy
  split <;> rfl

/-- A port that does not hold the data path has nothing to release (R97). -/
theorem State.releaseBy_of_not_held (s : State) {q : PortId} (h : s.arbiter.holder ≠ .port q) :
    s.releaseBy q = s := by
  simp [State.releaseBy, h]

/-- A holder's release frees the data path (R97, R108). -/
theorem State.releaseBy_of_held (s : State) {q : PortId} (h : s.arbiter.holder = .port q) :
    s.releaseBy q = s.release := by
  simp [State.releaseBy, h]

/-! ### Latches and claims -/

@[simp] theorem State.dropLatch_port_same (s : State) (p : PortId) :
    (s.dropLatch p).port p = (s.port p).setLatch none := by
  simp [State.dropLatch]
@[simp] theorem State.dropLatch_port_ne (s : State) {p q : PortId} (h : q ≠ p) :
    (s.dropLatch p).port q = s.port q := by
  simp [State.dropLatch, h]
@[simp] theorem State.dropLatch_map (s : State) (p : PortId) : (s.dropLatch p).map = s.map.leaveFence p := rfl
@[simp] theorem State.dropLatch_win (s : State) (p : PortId) : (s.dropLatch p).win = s.win := rfl
@[simp] theorem State.dropLatch_arbiter (s : State) (p : PortId) : (s.dropLatch p).arbiter = s.arbiter := rfl
@[simp] theorem State.dropLatch_access (s : State) (p : PortId) : (s.dropLatch p).access = s.access := rfl
@[simp] theorem State.dropLatch_reports (s : State) (p : PortId) : (s.dropLatch p).reports = s.reports := rfl
@[simp] theorem State.dropLatch_attn (s : State) (p : PortId) : (s.dropLatch p).attn = s.attn := rfl
@[simp] theorem State.dropLatch_time (s : State) (p : PortId) : (s.dropLatch p).time = s.time := rfl
@[simp] theorem State.dropLatch_pending (s : State) (p : PortId) : (s.dropLatch p).pending = s.pending := rfl

@[simp] theorem State.withdrawClaim_port (s : State) (p q : PortId) : (s.withdrawClaim p).port q = s.port q := rfl
@[simp] theorem State.withdrawClaim_reports (s : State) (p : PortId) : (s.withdrawClaim p).reports = s.reports := rfl
@[simp] theorem State.withdrawClaim_attn (s : State) (p : PortId) : (s.withdrawClaim p).attn = s.attn := rfl
@[simp] theorem State.withdrawClaim_win (s : State) (p : PortId) : (s.withdrawClaim p).win = s.win := rfl
@[simp] theorem State.withdrawClaim_arbiter (s : State) (p : PortId) : (s.withdrawClaim p).arbiter = s.arbiter := rfl

@[simp] theorem State.takeClaim_port (s : State) (o : Origin) (a : Word) (f p : PortId) :
    (s.takeClaim o a f).port p = s.port p := rfl
@[simp] theorem State.takeClaim_reports (s : State) (o : Origin) (a : Word) (f : PortId) :
    (s.takeClaim o a f).reports = s.reports := rfl
@[simp] theorem State.takeClaim_attn (s : State) (o : Origin) (a : Word) (f : PortId) :
    (s.takeClaim o a f).attn = s.attn := rfl

end Sys2Proof.Machine
end

