-- ==== Sys2Proof/Laws/Frames.lean ====
section
/-! SUPPORT. What the shared operations leave alone: the attention unit, the time base and the queue of commands under
every operation of a port, and the window, the data path and the map unit's table where an operation does not reach them.
Cite these instead of unfolding the operation. -/

namespace Sys2Proof.Machine


/-! ### Retirement and record ends -/

@[simp] theorem State.retire_attn (s : State) (p : PortId) (st : Status) (needed : Bool) (rep : Report) :
    (s.retire p st needed rep).attn = s.attn := by
  unfold State.retire
  split_ifs <;> rfl
@[simp] theorem State.retire_time (s : State) (p : PortId) (st : Status) (needed : Bool) (rep : Report) :
    (s.retire p st needed rep).time = s.time := by
  unfold State.retire
  split_ifs <;> rfl
@[simp] theorem State.retire_pending (s : State) (p : PortId) (st : Status) (needed : Bool) (rep : Report) :
    (s.retire p st needed rep).pending = s.pending := by
  unfold State.retire
  split_ifs <;> rfl
@[simp] theorem State.retire_win (s : State) (p : PortId) (st : Status) (needed : Bool) (rep : Report) :
    (s.retire p st needed rep).win = s.win := by
  unfold State.retire
  split_ifs <;> rfl
@[simp] theorem State.retire_arbiter (s : State) (p : PortId) (st : Status) (needed : Bool) (rep : Report) :
    (s.retire p st needed rep).arbiter = s.arbiter := by
  unfold State.retire
  split_ifs <;> rfl
@[simp] theorem State.retire_access (s : State) (p : PortId) (st : Status) (needed : Bool) (rep : Report) :
    (s.retire p st needed rep).access = s.access := by
  unfold State.retire
  split_ifs <;> rfl
@[simp] theorem State.retire_map (s : State) (p : PortId) (st : Status) (needed : Bool) (rep : Report) :
    (s.retire p st needed rep).map = s.map := by
  unfold State.retire
  split_ifs <;> rfl
@[simp] theorem State.recordEnd_attn (s : State) (p : PortId) (st : Status) (d : Detail) :
    (s.recordEnd p st d).attn = s.attn := by
  unfold State.recordEnd
  split <;> simp
@[simp] theorem State.recordEnd_time (s : State) (p : PortId) (st : Status) (d : Detail) :
    (s.recordEnd p st d).time = s.time := by
  unfold State.recordEnd
  split <;> simp
@[simp] theorem State.recordEnd_pending (s : State) (p : PortId) (st : Status) (d : Detail) :
    (s.recordEnd p st d).pending = s.pending := by
  unfold State.recordEnd
  split <;> simp
@[simp] theorem State.recordEnd_win (s : State) (p : PortId) (st : Status) (d : Detail) :
    (s.recordEnd p st d).win = s.win := by
  unfold State.recordEnd
  split <;> simp
@[simp] theorem State.recordEnd_arbiter (s : State) (p : PortId) (st : Status) (d : Detail) :
    (s.recordEnd p st d).arbiter = s.arbiter := by
  unfold State.recordEnd
  split <;> simp
@[simp] theorem State.recordEnd_access (s : State) (p : PortId) (st : Status) (d : Detail) :
    (s.recordEnd p st d).access = s.access := by
  unfold State.recordEnd
  split <;> simp

/-! ### Claims -/

@[simp] theorem State.takeClaim_time (s : State) (o : Origin) (a : Word) (q : PortId) :
    (s.takeClaim o a q).time = s.time := rfl
@[simp] theorem State.takeClaim_pending (s : State) (o : Origin) (a : Word) (q : PortId) :
    (s.takeClaim o a q).pending = s.pending := rfl
@[simp] theorem State.takeClaim_win (s : State) (o : Origin) (a : Word) (q : PortId) :
    (s.takeClaim o a q).win = s.win := rfl
@[simp] theorem State.takeClaim_arbiter (s : State) (o : Origin) (a : Word) (q : PortId) :
    (s.takeClaim o a q).arbiter = s.arbiter := rfl
@[simp] theorem State.takeClaim_access (s : State) (o : Origin) (a : Word) (q : PortId) :
    (s.takeClaim o a q).access = s.access := rfl
@[simp] theorem State.raiseClaim_attn (s : State) (p : PortId) (a : Word) : (s.raiseClaim p a).attn = s.attn := by
  unfold State.raiseClaim
  split <;> rfl
@[simp] theorem State.raiseClaim_time (s : State) (p : PortId) (a : Word) : (s.raiseClaim p a).time = s.time := by
  unfold State.raiseClaim
  split <;> rfl
@[simp] theorem State.raiseClaim_pending (s : State) (p : PortId) (a : Word) :
    (s.raiseClaim p a).pending = s.pending := by
  unfold State.raiseClaim
  split <;> rfl
@[simp] theorem State.raiseClaim_win (s : State) (p : PortId) (a : Word) : (s.raiseClaim p a).win = s.win := by
  unfold State.raiseClaim
  split <;> rfl
@[simp] theorem State.raiseClaim_arbiter (s : State) (p : PortId) (a : Word) :
    (s.raiseClaim p a).arbiter = s.arbiter := by
  unfold State.raiseClaim
  split <;> rfl
@[simp] theorem State.raiseClaim_access (s : State) (p : PortId) (a : Word) : (s.raiseClaim p a).access = s.access := by
  unfold State.raiseClaim
  split <;> rfl
@[simp] theorem State.raiseClaim_reports (s : State) (p : PortId) (a : Word) :
    (s.raiseClaim p a).reports = s.reports := by
  unfold State.raiseClaim
  split <;> rfl
@[simp] theorem State.raiseClaim_port (s : State) (p : PortId) (a : Word) (q : PortId) :
    (s.raiseClaim p a).port q = s.port q := by
  unfold State.raiseClaim
  split <;> rfl
@[simp] theorem State.withdrawClaim_time (s : State) (p : PortId) : (s.withdrawClaim p).time = s.time := rfl
@[simp] theorem State.withdrawClaim_pending (s : State) (p : PortId) : (s.withdrawClaim p).pending = s.pending := rfl
@[simp] theorem State.withdrawClaim_access (s : State) (p : PortId) : (s.withdrawClaim p).access = s.access := rfl
@[simp] theorem State.takeNextClaim_attn (s : State) : (s.takeNextClaim).attn = s.attn := by
  unfold State.takeNextClaim
  repeat' split
  all_goals rfl
@[simp] theorem State.takeNextClaim_time (s : State) : (s.takeNextClaim).time = s.time := by
  unfold State.takeNextClaim
  repeat' split
  all_goals rfl
@[simp] theorem State.takeNextClaim_pending (s : State) : (s.takeNextClaim).pending = s.pending := by
  unfold State.takeNextClaim
  repeat' split
  all_goals rfl
@[simp] theorem State.takeNextClaim_win (s : State) : (s.takeNextClaim).win = s.win := by
  unfold State.takeNextClaim
  repeat' split
  all_goals rfl
@[simp] theorem State.takeNextClaim_arbiter (s : State) : (s.takeNextClaim).arbiter = s.arbiter := by
  unfold State.takeNextClaim
  repeat' split
  all_goals rfl
@[simp] theorem State.takeNextClaim_access (s : State) : (s.takeNextClaim).access = s.access := by
  unfold State.takeNextClaim
  repeat' split
  all_goals rfl
@[simp] theorem State.takeNextClaim_reports (s : State) : (s.takeNextClaim).reports = s.reports := by
  unfold State.takeNextClaim
  repeat' split
  all_goals rfl
@[simp] theorem State.takeNextClaim_port (s : State) (q : PortId) : (s.takeNextClaim).port q = s.port q := by
  unfold State.takeNextClaim
  repeat' split
  all_goals rfl

/-! ### The head becoming current -/

@[simp] theorem State.examineFuel_attn (n : Nat) (p : PortId) (s : State) :
    (State.examineFuel n p s).attn = s.attn := by
  induction n generalizing s with
  | zero => rfl
  | succ n ih =>
    unfold State.examineFuel
    repeat' split
    all_goals simp [ih]
@[simp] theorem State.examineFuel_time (n : Nat) (p : PortId) (s : State) :
    (State.examineFuel n p s).time = s.time := by
  induction n generalizing s with
  | zero => rfl
  | succ n ih =>
    unfold State.examineFuel
    repeat' split
    all_goals simp [ih]
@[simp] theorem State.examineFuel_pending (n : Nat) (p : PortId) (s : State) :
    (State.examineFuel n p s).pending = s.pending := by
  induction n generalizing s with
  | zero => rfl
  | succ n ih =>
    unfold State.examineFuel
    repeat' split
    all_goals simp [ih]
@[simp] theorem State.examineFuel_win (n : Nat) (p : PortId) (s : State) :
    (State.examineFuel n p s).win = s.win := by
  induction n generalizing s with
  | zero => rfl
  | succ n ih =>
    unfold State.examineFuel
    repeat' split
    all_goals simp [ih]
@[simp] theorem State.examineFuel_arbiter (n : Nat) (p : PortId) (s : State) :
    (State.examineFuel n p s).arbiter = s.arbiter := by
  induction n generalizing s with
  | zero => rfl
  | succ n ih =>
    unfold State.examineFuel
    repeat' split
    all_goals simp [ih]
@[simp] theorem State.examineFuel_access (n : Nat) (p : PortId) (s : State) :
    (State.examineFuel n p s).access = s.access := by
  induction n generalizing s with
  | zero => rfl
  | succ n ih =>
    unfold State.examineFuel
    repeat' split
    all_goals simp [ih]
@[simp] theorem State.examine_attn (s : State) (p : PortId) : (s.examine p).attn = s.attn := by simp [State.examine]
@[simp] theorem State.examine_time (s : State) (p : PortId) : (s.examine p).time = s.time := by simp [State.examine]
@[simp] theorem State.examine_pending (s : State) (p : PortId) :
    (s.examine p).pending = s.pending := by simp [State.examine]
@[simp] theorem State.examine_win (s : State) (p : PortId) : (s.examine p).win = s.win := by simp [State.examine]
@[simp] theorem State.examine_arbiter (s : State) (p : PortId) :
    (s.examine p).arbiter = s.arbiter := by simp [State.examine]
@[simp] theorem State.examine_access (s : State) (p : PortId) :
    (s.examine p).access = s.access := by simp [State.examine]
@[simp] theorem State.serve_attn (s : State) (p : PortId) : (s.serve p).attn = s.attn := by simp [State.serve]
@[simp] theorem State.serve_time (s : State) (p : PortId) : (s.serve p).time = s.time := by simp [State.serve]
@[simp] theorem State.serve_pending (s : State) (p : PortId) : (s.serve p).pending = s.pending := by simp [State.serve]
@[simp] theorem State.serve_win (s : State) (p : PortId) : (s.serve p).win = s.win := by simp [State.serve]
@[simp] theorem State.serve_arbiter (s : State) (p : PortId) : (s.serve p).arbiter = s.arbiter := by simp [State.serve]
@[simp] theorem State.serve_access (s : State) (p : PortId) : (s.serve p).access = s.access := by simp [State.serve]
@[simp] theorem State.serveIdle_attn (s : State) (p : PortId) : (s.serveIdle p).attn = s.attn := by
  unfold State.serveIdle
  split_ifs <;> simp
@[simp] theorem State.serveIdle_time (s : State) (p : PortId) : (s.serveIdle p).time = s.time := by
  unfold State.serveIdle
  split_ifs <;> simp
@[simp] theorem State.serveIdle_pending (s : State) (p : PortId) : (s.serveIdle p).pending = s.pending := by
  unfold State.serveIdle
  split_ifs <;> simp
@[simp] theorem State.serveIdle_win (s : State) (p : PortId) : (s.serveIdle p).win = s.win := by
  unfold State.serveIdle
  split_ifs <;> simp
@[simp] theorem State.serveIdle_arbiter (s : State) (p : PortId) : (s.serveIdle p).arbiter = s.arbiter := by
  unfold State.serveIdle
  split_ifs <;> simp
@[simp] theorem State.serveIdle_access (s : State) (p : PortId) : (s.serveIdle p).access = s.access := by
  unfold State.serveIdle
  split_ifs <;> simp

/-! ### Bursts -/

@[simp] theorem State.burstOver_attn (s : State) (p : PortId) : (s.burstOver p).attn = s.attn := by
  simp only [State.burstOver]
  split_ifs <;> simp
@[simp] theorem State.burstOver_time (s : State) (p : PortId) : (s.burstOver p).time = s.time := by
  simp only [State.burstOver]
  split_ifs <;> simp
@[simp] theorem State.burstOver_pending (s : State) (p : PortId) : (s.burstOver p).pending = s.pending := by
  simp only [State.burstOver]
  split_ifs <;> simp
@[simp] theorem State.burstOver_win (s : State) (p : PortId) : (s.burstOver p).win = s.win := by
  simp only [State.burstOver]
  split_ifs <;> simp
@[simp] theorem State.burstOver_arbiter (s : State) (p : PortId) : (s.burstOver p).arbiter = s.arbiter := by
  simp only [State.burstOver]
  split_ifs <;> simp
@[simp] theorem State.burstOver_access (s : State) (p : PortId) : (s.burstOver p).access = s.access := by
  simp only [State.burstOver]
  split_ifs <;> simp
@[simp] theorem State.confirm_attn (s : State) (p : PortId) : (s.confirm p).attn = s.attn := by simp [State.confirm]
@[simp] theorem State.confirm_time (s : State) (p : PortId) : (s.confirm p).time = s.time := by simp [State.confirm]
@[simp] theorem State.confirm_pending (s : State) (p : PortId) :
    (s.confirm p).pending = s.pending := by simp [State.confirm]
@[simp] theorem State.transferEnd_attn (s : State) (p : PortId) : (s.transferEnd p).attn = s.attn := by
  unfold State.transferEnd
  repeat' split
  all_goals simp
@[simp] theorem State.transferEnd_time (s : State) (p : PortId) : (s.transferEnd p).time = s.time := by
  unfold State.transferEnd
  repeat' split
  all_goals simp
@[simp] theorem State.transferEnd_pending (s : State) (p : PortId) : (s.transferEnd p).pending = s.pending := by
  unfold State.transferEnd
  repeat' split
  all_goals simp
@[simp] theorem State.endHere_attn (s : State) (p : PortId) (st : Status) (d : Detail) :
    (s.endHere p st d).attn = s.attn := by simp [State.endHere]
@[simp] theorem State.endHere_time (s : State) (p : PortId) (st : Status) (d : Detail) :
    (s.endHere p st d).time = s.time := by simp [State.endHere]
@[simp] theorem State.endHere_pending (s : State) (p : PortId) (st : Status) (d : Detail) :
    (s.endHere p st d).pending = s.pending := by simp [State.endHere]
@[simp] theorem State.wantWord_attn (s : State) (p : PortId) : (s.wantWord p).attn = s.attn := by
  unfold State.wantWord
  split_ifs <;> simp
@[simp] theorem State.wantWord_time (s : State) (p : PortId) : (s.wantWord p).time = s.time := by
  unfold State.wantWord
  split_ifs <;> simp
@[simp] theorem State.wantWord_pending (s : State) (p : PortId) : (s.wantWord p).pending = s.pending := by
  unfold State.wantWord
  split_ifs <;> simp
@[simp] theorem State.startRead_attn (s : State) (p : PortId) (w : Work) : (s.startRead p w).attn = s.attn := rfl
@[simp] theorem State.startRead_time (s : State) (p : PortId) (w : Work) : (s.startRead p w).time = s.time := rfl
@[simp] theorem State.startRead_pending (s : State) (p : PortId) (w : Work) :
    (s.startRead p w).pending = s.pending := rfl
@[simp] theorem State.startRead_win (s : State) (p : PortId) (w : Work) : (s.startRead p w).win = s.win := rfl
@[simp] theorem State.startRead_arbiter (s : State) (p : PortId) (w : Work) :
    (s.startRead p w).arbiter = s.arbiter := rfl
@[simp] theorem State.startRead_map (s : State) (p : PortId) (w : Work) : (s.startRead p w).map = s.map := rfl
@[simp] theorem State.startRead_reports (s : State) (p : PortId) (w : Work) :
    (s.startRead p w).reports = s.reports := rfl
@[simp] theorem State.translated_attn (s : State) (p : PortId) (w : Work) : (s.translated p w).attn = s.attn := by
  unfold State.translated
  split_ifs <;> simp
@[simp] theorem State.translated_time (s : State) (p : PortId) (w : Work) : (s.translated p w).time = s.time := by
  unfold State.translated
  split_ifs <;> simp
@[simp] theorem State.translated_pending (s : State) (p : PortId) (w : Work) :
    (s.translated p w).pending = s.pending := by
  unfold State.translated
  split_ifs <;> simp
@[simp] theorem State.afterDelivery_attn (s : State) (p : PortId) (w : Work) : (s.afterDelivery p w).attn = s.attn := by
  simp only [State.afterDelivery]
  split_ifs <;> simp
@[simp] theorem State.afterDelivery_time (s : State) (p : PortId) (w : Work) : (s.afterDelivery p w).time = s.time := by
  simp only [State.afterDelivery]
  split_ifs <;> simp
@[simp] theorem State.afterDelivery_pending (s : State) (p : PortId) (w : Work) :
    (s.afterDelivery p w).pending = s.pending := by
  simp only [State.afterDelivery]
  split_ifs <;> simp
@[simp] theorem State.repeatBurst_attn (s : State) (p : PortId) (w : Work) : (s.repeatBurst p w).attn = s.attn := by
  simp only [State.repeatBurst]
  split_ifs <;> simp
@[simp] theorem State.repeatBurst_time (s : State) (p : PortId) (w : Work) : (s.repeatBurst p w).time = s.time := by
  simp only [State.repeatBurst]
  split_ifs <;> simp
@[simp] theorem State.repeatBurst_pending (s : State) (p : PortId) (w : Work) :
    (s.repeatBurst p w).pending = s.pending := by
  simp only [State.repeatBurst]
  split_ifs <;> simp
@[simp] theorem State.cutRecord_attn (s : State) (p : PortId) (c : Cut) (st : Status) :
    (s.cutRecord p c st).attn = s.attn := by
  simp only [State.cutRecord]
  split_ifs <;> simp
@[simp] theorem State.cutRecord_time (s : State) (p : PortId) (c : Cut) (st : Status) :
    (s.cutRecord p c st).time = s.time := by
  simp only [State.cutRecord]
  split_ifs <;> simp
@[simp] theorem State.cutRecord_pending (s : State) (p : PortId) (c : Cut) (st : Status) :
    (s.cutRecord p c st).pending = s.pending := by
  simp only [State.cutRecord]
  split_ifs <;> simp

/-! ### RESULT and the host bus -/

@[simp] theorem State.refuse_time (s : State) (op : BitVec 4) (why : Reason) (v : Nat) :
    (s.refuse op why v).time = s.time := rfl
@[simp] theorem State.refuse_pending (s : State) (op : BitVec 4) (why : Reason) (v : Nat) :
    (s.refuse op why v).pending = s.pending := rfl
@[simp] theorem State.refuseAt_time (s : State) (op : BitVec 4) (why : Reason) (p : PortId) :
    (s.refuseAt op why p).time = s.time := rfl
@[simp] theorem State.refuseAt_pending (s : State) (op : BitVec 4) (why : Reason) (p : PortId) :
    (s.refuseAt op why p).pending = s.pending := rfl
@[simp] theorem State.accept_time (s : State) (op : BitVec 4) (v : Nat) : (s.accept op v).time = s.time := rfl
@[simp] theorem State.accept_pending (s : State) (op : BitVec 4) (v : Nat) : (s.accept op v).pending = s.pending := rfl
@[simp] theorem State.ignoreWrite_time (s : State) : (s.ignoreWrite).time = s.time := rfl
@[simp] theorem State.ignoreWrite_pending (s : State) : (s.ignoreWrite).pending = s.pending := rfl
@[simp] theorem State.answerRead_time (s : State) (w : Word) : (s.answerRead w).time = s.time := rfl
@[simp] theorem State.answerRead_pending (s : State) (w : Word) : (s.answerRead w).pending = s.pending := rfl

end Sys2Proof.Machine
end

