-- ==== Sys2Proof/Laws/Ports.lean ====
section
/-! SUPPORT. What the gates of the window, the examination of the head, the start of a burst and a retirement can do, said
once for each: cite these instead of unfolding them. -/

namespace Sys2Proof.Machine

/-! ### The gates of the window -/

theorem State.unlessReset_live {s : State} (h : s.Live) (f : State → State) : s.unlessReset f = f s := by
  have h' : s.win.resetHeld = false := h
  simp [State.unlessReset, h']

theorem State.unlessReset_held {s : State} (h : s.win.resetHeld = true) (f : State → State) : s.unlessReset f = s := by
  simp [State.unlessReset, h]

theorem State.command_ready {s : State} (h : s.Ready) (op : BitVec 4) (f : State → State) : s.command op f = f s := by
  obtain ⟨h1, h2, h3⟩ := h
  simp [State.command, State.unlessReset, h1, h2, h3]

theorem State.command_busy {s : State} (h : s.Live) (hb : s.win.initBusy = true ∨ s.win.resetBusy = true)
    (op : BitVec 4) (f : State → State) : s.command op f = s.refuse op .busy 0 := by
  have h' : s.win.resetHeld = false := h
  have hb' : (s.win.initBusy || s.win.resetBusy) = true := by simpa using hb
  simp [State.command, State.unlessReset, h', hb']

theorem portOfField_of_lt {port : BitVec 4} {p : PortId} (hp : port.toNat = p.val) : portOfField port = some p := by
  have := p.isLt
  simp [portOfField, hp]

theorem portOfField_of_ge {port : BitVec 4} (hp : 8 ≤ port.toNat) : portOfField port = none := by
  simp only [portOfField, dif_neg (Nat.not_lt.mpr hp)]

theorem State.portCommand_ready {s : State} (h : s.Ready) {port : BitVec 4} {p : PortId} (hp : port.toNat = p.val)
    (op : BitVec 4) (f : PortId → State → State) : s.portCommand op port f = f p s := by
  simp [State.portCommand, State.command_ready h, portOfField_of_lt hp]

theorem State.portCommand_badPort {s : State} (h : s.Ready) {port : BitVec 4} (hp : 8 ≤ port.toNat) (op : BitVec 4)
    (f : PortId → State → State) : s.portCommand op port f = s.refuse op .badPort 0 := by
  simp [State.portCommand, State.command_ready h, portOfField_of_ge hp]

theorem State.windowRead_live {s : State} (h : s.Live) (f : State → State) : s.windowRead false f = f s := by
  have h' : s.win.resetHeld = false := h
  simp [State.windowRead, h']

/-! ### The head becoming current (R22, R23) -/

/-- Only an IDLE port examines its head. -/
theorem State.examine_of_not_idle {s : State} {p : PortId} (h : (s.port p).state ≠ .idle) : s.examine p = s := by
  simp [State.examine, State.examineFuel, h]

/-- An empty queue leaves an IDLE port IDLE. -/
theorem State.examine_of_empty {s : State} {p : PortId} (h : (s.port p).queue = []) : s.examine p = s := by
  simp [State.examine, State.examineFuel, h]

/-- A head that may not become current leaves an IDLE port IDLE. -/
theorem State.examine_of_waiting {s : State} {p : PortId} {slot : Slot} {rest : List Slot}
    (hq : (s.port p).queue = slot :: rest) (h : (s.port p).mayBecomeCurrent slot.record = false) : s.examine p = s := by
  simp only [State.examine, State.examineFuel, hq, h]
  split <;> simp

/-- A data record at the head of an IDLE port is taken up while ATTACHED is set and RESYNC and SKIP are clear. -/
theorem State.examine_of_data {s : State} {p : PortId} {slot : Slot} {rest : List Slot}
    (hi : (s.port p).state = .idle) (hq : (s.port p).queue = slot :: rest) (hd : slot.record.work.isData = true)
    (ha : (s.port p).attached = true) (hr : (s.port p).resync = false) (hs : (s.port p).skip = false) :
    s.examine p = s.setPort p ((s.port p).takeUp slot.record rest) := by
  cases hw : slot.record.work <;> simp [hw, Work.isData, Work.dir] at hd <;>
    simp [State.examine, State.examineFuel, hi, hq, Port.mayBecomeCurrent, hw, Work.isData, Work.dir, ha, hr,
      Port.instantStatus, hs]

/-- A PATCH record at the head of an IDLE port is taken up and claims the patch engine. -/
theorem State.examine_of_patch {s : State} {p : PortId} {slot : Slot} {rest : List Slot} {a : Word}
    (hi : (s.port p).state = .idle) (hq : (s.port p).queue = slot :: rest) (hw : slot.record.work = .patch a) :
    s.examine p = (s.setPort p ((s.port p).takeUp slot.record rest)).raiseClaim p a := by
  simp [State.examine, State.examineFuel, hi, hq, Port.mayBecomeCurrent, hw, Work.isData, Work.dir,
    Port.instantStatus]

/-- A serve at a port that is not IDLE starts only what can begin there. -/
theorem State.serve_of_not_idle {s : State} {p : PortId} (h : (s.port p).state ≠ .idle) :
    s.serve p = s.modPort p Port.settle := by
  simp [State.serve, State.examine_of_not_idle h]

/-- An examination that changes nothing leaves the serve to what can begin. -/
theorem State.serve_of_examine {s : State} {p : PortId} (h : s.examine p = s) : s.serve p = s.modPort p Port.settle := by
  simp [State.serve, h]

theorem State.serveIdle_of_not_idle {s : State} {p : PortId} (h : (s.port p).state ≠ .idle) : s.serveIdle p = s := by
  simp [State.serveIdle, h]

theorem State.serveIdle_of_idle {s : State} {p : PortId} (h : (s.port p).state = .idle) : s.serveIdle p = s.serve p := by
  simp [State.serveIdle, h]

/-! ### What can begin at a port (R66, R82, R85) -/

/-- With no data record current and resync discard not running, nothing begins. -/
theorem Port.settle_of_none {P : Port} (hc : P.currentData = none) (hd : P.discards = false) : P.settle = P := by
  simp [Port.settle, hc, hd]

/-- Resync discard turns DIR to INBOUND. -/
theorem Port.settle_of_discards {P : Port} (hd : P.discards = true) : P.settle = { P with dirLine := .inbound } := by
  simp [Port.settle, hd]

/-- A MOVE waits for its grant. -/
theorem Port.settle_of_move {P : Port} {w : Work} (hc : P.currentData = some w) (hm : w.isMove = true) :
    P.settle = P := by
  simp [Port.settle, hc, hm, Port.discards]

/-- A FILL or DRAIN burst starts as soon as its conditions hold. -/
theorem Port.settle_of_ready {P : Port} {w : Work} (hc : P.currentData = some w) (hm : w.isMove = false)
    (hr : P.readyForBurst = true) : P.settle = P.startBurst w := by
  simp [Port.settle, hc, hm, hr, Port.discards]

/-- A burst whose conditions do not hold does not start. -/
theorem Port.settle_of_not_ready {P : Port} {w : Work} (hc : P.currentData = some w) (hr : P.readyForBurst = false) :
    P.settle = P := by
  simp [Port.settle, hc, hr, Port.discards]

/-- An IDLE or HALTED port with no data record current: resync discard turns DIR to INBOUND while it can run. -/
theorem Port.settle_of_idle_or_halted {P : Port} (hi : P.state = .idle ∨ P.state = .halted)
    (hc : P.currentData = none) :
    P.settle = { P with dirLine := if P.resync && P.attached then .inbound else P.dirLine } := by
  have hd : P.discards = (P.resync && P.attached) := by
    rcases hi with hi | hi <;> simp [Port.discards, hi, hc]
  unfold Port.settle
  rw [hd]
  split
  · simp
  · simp [hc]

/-- A current data record is the head of the queue in stage CURRENT. -/
theorem Port.currentData_of_queue {P : Port} {r : Record} {rest : List Slot} (hq : P.queue = ⟨r, .current⟩ :: rest)
    (hd : r.work.dir ≠ none) : P.currentData = some r.work := by
  simp [Port.currentData, Port.current, hq, Work.isData, Option.isSome_iff_ne_none, hd]

/-- A queue whose head is not in stage CURRENT holds no current record. -/
theorem Port.current_of_queued {P : Port} (h : ∀ slot ∈ P.queue.head?, slot.stage ≠ .current) : P.current = none := by
  unfold Port.current
  split
  · rename_i r rest hq; exact absurd rfl (h ⟨r, .current⟩ (by simp [hq]))
  · rfl

theorem Port.currentData_of_queued {P : Port} (h : ∀ slot ∈ P.queue.head?, slot.stage ≠ .current) :
    P.currentData = none := by
  simp [Port.currentData, Port.current_of_queued h]

/-- A port that is not RUNNING starts no burst. -/
theorem Port.readyForBurst_of_not_running {P : Port} (h : P.state ≠ .running) : P.readyForBurst = false := by
  simp [Port.readyForBurst, h]

/-- What can begin changes the burst items and DIR alone. -/
theorem Port.settle_keeps (P : Port) :
    P.settle = { P with
      phase := P.settle.phase, burstStart := P.settle.burstStart, burstLength := P.settle.burstLength
      exchanged := P.settle.exchanged, answered := P.settle.answered, dirLine := P.settle.dirLine } := by
  unfold Port.settle
  split
  · rfl
  · split
    · split <;> rfl
    · rfl

/-- When an RPT would be the second answer to a burst (R78). -/
theorem Port.secondAnswer_iff (P : Port) : P.secondAnswer = true ↔ P.answered = true ∧ P.exchanged = 0 := by
  simp [Port.secondAnswer]

/-- A burst that starts has no CNF behind it: only the CNF's own step marks it (R78). -/
@[simp] theorem Port.startBurst_secondAnswer (P : Port) (w : Work) : (P.startBurst w).secondAnswer = false := by
  simp [Port.secondAnswer, Port.startBurst]

/-! ### Retirement (R61, R62) -/

/-- A record end that needs no report completes at once. -/
theorem State.retire_unreported (s : State) (p : PortId) (st : Status) (rep : Report) :
    s.retire p st false rep = s.modPort p (Port.completeRetirement st) := by
  simp [State.retire]

/-- A record end whose report finds a free entry is posted and completes. -/
theorem State.retire_posted {s : State} (h : s.reports.entries.length < 32) (p : PortId) (st : Status) (rep : Report) :
    s.retire p st true rep =
      { s.modPort p (Port.completeRetirement st) with reports := s.reports.post rep } := by
  have hf : s.reports.full = false := by simp [ReportQueue.full]; omega
  simp [State.retire, hf]

/-- A record end whose report finds the queue full blocks its port. -/
theorem State.retire_blocks {s : State} (h : 32 ≤ s.reports.entries.length) (p : PortId) (st : Status) (rep : Report) :
    s.retire p st true rep =
      { s.modPort p (Port.block st rep) with
        reports := { s.reports with blocked := s.reports.blocked ++ [p] } } := by
  have hf : s.reports.full = true := by simp [ReportQueue.full]; omega
  simp [State.retire, hf]

/-- An error end halts its port (R49, R61). -/
theorem Port.completeRetirement_error {st : Status} (h : st.isError = true) (P : Port) :
    P.completeRetirement st =
      { P with queue := P.queue.tail, heldReport := none, state := .halted, haltEvent := true,
               pausePending := false } := by
  simp [Port.completeRetirement, h]

/-! ### One port at a time -/

theorem State.retire_port_ne (s : State) {p q : PortId} (h : q ≠ p) (st : Status) (needed : Bool) (rep : Report) :
    (s.retire p st needed rep).port q = s.port q := by
  unfold State.retire
  split_ifs <;> simp [h]

theorem State.recordEnd_port_ne (s : State) {p q : PortId} (h : q ≠ p) (st : Status) (d : Detail) :
    (s.recordEnd p st d).port q = s.port q := by
  unfold State.recordEnd
  split
  · rfl
  · simp [State.retire_port_ne _ h, h]

theorem State.examineFuel_port_ne (n : Nat) {p q : PortId} (h : q ≠ p) (s : State) :
    (State.examineFuel n p s).port q = s.port q := by
  induction n generalizing s with
  | zero => rfl
  | succ n ih =>
    unfold State.examineFuel
    repeat' split
    all_goals simp [ih, State.recordEnd_port_ne _ h, h]

theorem State.serve_port_ne (s : State) {p q : PortId} (h : q ≠ p) : (s.serve p).port q = s.port q := by
  simp [State.serve, State.examine, h, State.examineFuel_port_ne _ h]

theorem State.serveIdle_port_ne (s : State) {p q : PortId} (h : q ≠ p) : (s.serveIdle p).port q = s.port q := by
  unfold State.serveIdle
  split_ifs <;> simp [State.serve_port_ne _ h]

theorem State.burstOver_port_ne (s : State) {p q : PortId} (h : q ≠ p) : (s.burstOver p).port q = s.port q := by
  simp only [State.burstOver]
  split_ifs <;> simp [State.recordEnd_port_ne _ h, h]

theorem State.endHere_port_ne (s : State) {p q : PortId} (h : q ≠ p) (st : Status) (d : Detail) :
    (s.endHere p st d).port q = s.port q := by
  simp [State.endHere, State.recordEnd_port_ne _ h]

theorem State.transferEnd_port_ne (s : State) {p q : PortId} (h : q ≠ p) : (s.transferEnd p).port q = s.port q := by
  unfold State.transferEnd
  repeat' split
  all_goals simp [State.confirm, State.burstOver_port_ne _ h, h]

theorem State.wantWord_port_ne (s : State) {p q : PortId} (h : q ≠ p) : (s.wantWord p).port q = s.port q := by
  unfold State.wantWord
  split_ifs <;> simp [State.transferEnd_port_ne _ h]

theorem State.translated_port_ne (s : State) {p q : PortId} (h : q ≠ p) (w : Work) :
    (s.translated p w).port q = s.port q := by
  unfold State.translated
  split_ifs
  · rfl
  · exact State.wantWord_port_ne s h

theorem State.afterDelivery_port_ne (s : State) {p q : PortId} (h : q ≠ p) (w : Work) :
    (s.afterDelivery p w).port q = s.port q := by
  simp only [State.afterDelivery]
  split_ifs <;> simp [State.endHere_port_ne _ h, State.transferEnd_port_ne _ h, State.wantWord_port_ne _ h]

theorem State.repeatBurst_port_ne (s : State) {p q : PortId} (h : q ≠ p) (w : Work) :
    (s.repeatBurst p w).port q = s.port q := by
  simp only [State.repeatBurst]
  split_ifs <;> simp [State.burstOver_port_ne _ h, State.endHere_port_ne _ h, h]

theorem State.cutRecord_port_ne (s : State) {p q : PortId} (h : q ≠ p) (c : Cut) (st : Status) :
    (s.cutRecord p c st).port q = s.port q := by
  simp only [State.cutRecord]
  split_ifs <;> simp [State.serve_port_ne _ h, State.endHere_port_ne _ h, h]

end Sys2Proof.Machine
end

