-- ==== Sys2Proof/Laws/Arbiter.lean ====
section
/-! SUPPORT. The arbiter's rotation (R106): every port is in it once, and a search through it finds the port the fewest steps
after the pointer. -/

namespace Sys2Proof.Machine

/-- Every port is in the rotation of every pointer. -/
theorem mem_rotation (pointer p : PortId) : p ∈ rotation pointer := by
  revert pointer p
  decide

/-- The rotation lists the ports by their distance from the pointer. -/
theorem rotation_sorted (pointer : PortId) :
    (rotation pointer).Pairwise fun a b => (a.val + 7 - pointer.val) % 8 < (b.val + 7 - pointer.val) % 8 := by
  revert pointer
  decide

/-- A search of the rotation finds the port with the property that is nearest after the pointer. -/
theorem find_rotation {pointer p : PortId} {f : PortId → Bool} (hp : f p = true)
    (hmin : ∀ q, f q = true → (p.val + 7 - pointer.val) % 8 ≤ (q.val + 7 - pointer.val) % 8) :
    (rotation pointer).find? f = some p := by
  have hm := mem_rotation pointer p
  have hsort := rotation_sorted pointer
  cases hf : (rotation pointer).find? f with
  | none => exact absurd hp (List.find?_eq_none.mp hf p hm)
  | some x =>
    have hx := List.find?_some hf
    obtain ⟨_, as, bs, hab, hnot⟩ := List.find?_eq_some_iff_append.mp hf
    rw [hab] at hm hsort
    rcases List.mem_append.mp hm with h | h
    · have := hnot p h
      simp [hp] at this
    · rcases List.mem_cons.mp h with h | h
      · rw [h]
      · have h1 := (List.pairwise_cons.mp (List.pairwise_append.mp hsort).2.1).1 p h
        have h2 := hmin x hx
        omega

/-- The patch fetch requests the data path while a patch in flight is not fetching (R102). -/
theorem State.fetchRequests_iff (s : State) : s.fetchRequests = true ↔ ∃ f ∈ s.map.engine, f.fetching = false := by
  unfold State.fetchRequests
  cases s.map.engine <;> simp

/-- A class has a first port exactly if a port's request stands in it. -/
theorem State.firstIn_isSome (s : State) (c : PortClass) :
    (s.firstIn c).isSome = true ↔ ∃ q, (s.port q).requests = true ∧ (s.port q).config.cls = c := by
  unfold State.firstIn
  rw [List.find?_isSome]
  constructor
  · rintro ⟨x, _, hx⟩
    exact ⟨x, by simpa [State.requestsIn] using hx⟩
  · rintro ⟨x, hx⟩
    exact ⟨x, mem_rotation _ x, by simpa [State.requestsIn] using hx⟩

end Sys2Proof.Machine
end

