-- ==== Sys2Proof/Laws/Attention.lean ====
section
/-! SUPPORT. The attention unit: which source is chosen. -/

namespace Sys2Proof.Machine

theorem mem_sourceCodes (x : Nat) : x ∈ sourceCodes ↔ x < 10 := by simp [sourceCodes]; omega

theorem Attention.level_lt (a : Attention) (c : Nat) : a.level c < 4 := Nat.mod_lt _ (by decide)

/-- The first code of the source list that meets a test, if it is the lowest that does. -/
theorem find_sourceCodes {f : Nat → Bool} {c : Nat} (hc : c < 10) (hf : f c = true)
    (hmin : ∀ x < 10, f x = true → c ≤ x) : sourceCodes.find? f = some c := by
  have below : ∀ x < c, f x = false := by
    intro x hx
    by_contra h
    have := hmin x (by omega) (by simpa using h)
    omega
  interval_cases c <;> simp [sourceCodes, hf, below]

/-- The chosen source: lowest LEVEL, then lowest code, among the eligible ones (R157). -/
theorem State.chosenSource_eq {s : State} {c : Fin 10} (h1 : s.eligible c.val = true)
    (h2 : ∀ c' : Fin 10, s.eligible c'.val = true → s.attn.level c.val ≤ s.attn.level c'.val ∧
      (s.attn.level c'.val = s.attn.level c.val → c.val ≤ c'.val)) : s.chosenSource = some c.val := by
  have hl := s.attn.level_lt c.val
  have none_of : ∀ l, l < s.attn.level c.val →
      (sourceCodes.find? fun x => s.eligible x && s.attn.level x == l) = none := by
    intro l hll
    rw [List.find?_eq_none]
    intro x hx hh
    simp only [Bool.and_eq_true, beq_iff_eq] at hh
    have := (h2 ⟨x, (mem_sourceCodes x).mp hx⟩ hh.1).1
    simp only at this
    omega
  have some_of : (sourceCodes.find? fun x => s.eligible x && s.attn.level x == s.attn.level c.val) = some c.val :=
    find_sourceCodes c.isLt (by simp [h1]) fun x hx hh => by
      simp only [Bool.and_eq_true, beq_iff_eq] at hh
      exact (h2 ⟨x, hx⟩ hh.1).2 hh.2
  unfold State.chosenSource
  generalize s.attn.level c.val = L at *
  obtain rfl | rfl | rfl | rfl : L = 0 ∨ L = 1 ∨ L = 2 ∨ L = 3 := by omega
  · simp [List.findSome?, some_of]
  · simp [List.findSome?, some_of, none_of 0]
  · simp [List.findSome?, some_of, none_of 0, none_of 1]
  · simp [List.findSome?, some_of, none_of 0, none_of 1, none_of 2]

/-- No source is chosen when none is eligible (R157). -/
theorem State.chosenSource_none {s : State} (h : ∀ c : Fin 10, s.eligible c.val = false) : s.chosenSource = none := by
  have e : ∀ l, (sourceCodes.find? fun x => s.eligible x && s.attn.level x == l) = none := by
    intro l
    rw [List.find?_eq_none]
    intro x hx
    have := h ⟨x, (mem_sourceCodes x).mp hx⟩
    simp only at this
    simp [this]
  simp [State.chosenSource, List.findSome?, e]

end Sys2Proof.Machine
end

