-- ==== Sys2Proof/Laws/Ends.lean ====
section
/-! SUPPORT. What the end of a data record can do, said once: an error end halts its port (R49, R53, R59, R61); a normal end whose
queue holds no other record leaves its port IDLE or PAUSED. -/

namespace Sys2Proof.Machine

/-- The message effects of an error end, field by field (R50, R53, R54, R58). -/
theorem Port.messageEffects_error {st : Status} (he : st.isError = true) (w : Work) (P : Port) :
    P.messageEffects w st = { P with
      resync := P.resync || P.errorResyncs st
      can := if P.errorCancels st then some 0 else P.can
      msgOpen := P.msgOpen && w.cont, skip := P.skip && w.cont
      wordsPassed := P.wordsPassed && w.cont, endPassed := P.endPassed && w.cont } := by
  obtain ⟨state, queue, mo, sk, md, wp, ep, re, pp⟩ := P
  cases hc : w.cont <;> cases st <;> simp [Status.isError] at he <;> cases md <;> cases wp <;> cases ep <;> cases re <;>
    simp [Port.messageEffects, Status.cutsMessage, Port.repairLines, Port.endSetsSkip, Port.errorResyncs,
      Port.errorCancels, Port.closeMessage, Port.driveCan, hc]

/-- A record end by an error status, at its port, before the lines are served. -/
theorem Port.halted_before_settle {st : Status} (he : st.isError = true) {r : Record} (hd : r.work.dir ≠ none) (P : Port) :
    ((((P.setLatch none).endBurst).endEffects r st).completeRetirement st) =
      { P.haltedAt r.work st with dirLine := P.dirLine } := by
  have hda : r.work.isData = true := by simp [Work.isData, Option.isSome_iff_ne_none, hd]
  rw [Port.completeRetirement_error he]
  simp only [Port.endEffects, hda, if_true, Port.messageEffects_error he]
  rfl

/-- A record end by an error status that blocks, at its port. -/
theorem Port.blocked_before_settle {st : Status} (he : st.isError = true) {r : Record} {rest : List Slot}
    (hd : r.work.dir ≠ none) {P : Port} (hq : P.queue = ⟨r, .current⟩ :: rest) (rep : Report) :
    ((((P.setLatch none).endBurst).endEffects r st).block st rep) = P.blockedAt r st rep := by
  have hda : r.work.isData = true := by simp [Work.isData, Option.isSome_iff_ne_none, hd]
  have hna : (st == .aborted) = false := by cases st <;> simp [Status.isError] at he <;> rfl
  simp only [Port.endEffects, hda, if_true, Port.messageEffects_error he]
  simp [Port.block, Port.blockedAt, Port.haltedAt, Port.endBurst, Port.setLatch, hq, hna, Port.errorResyncs,
    Port.errorCancels]

/-- The end of the current record, its retirement still to come (R59). -/
theorem State.recordEnd_eq {s : State} {p : PortId} {r : Record} (hcur : (s.port p).current = some r) (st : Status)
    (d : Detail) :
    s.recordEnd p st d = ((s.dropLatch p).modPort p fun P => P.endBurst.endEffects r st).retire p st (r.needsReport st)
      (((((s.port p).setLatch none).endBurst).endEffects r st).recordReport p r st d) := by
  simp only [State.recordEnd, hcur, State.port_modPort_same, State.dropLatch_port_same]

/-- An error end of a current data record at its own burst or out of one: the data path given back, the report posted and the
port HALTED, or, with no free entry, the port BLOCKED with its report held. -/
theorem State.endHere_fails {s : State} {p : PortId} {r : Record} {rest : List Slot} {st : Status}
    (hq : (s.port p).queue = ⟨r, .current⟩ :: rest) (hrest : ∀ slot ∈ rest, slot.stage = .queued)
    (hd : r.work.dir ≠ none) (he : st.isError = true) (d : Detail) :
    s.FailsAt ((s.endHere p st d).serve p) p (s.port p) r st d := by
  have hcur : ((s.releaseBy p).port p).current = some r := by simp [Port.current, hq]
  have hda : r.work.isData = true := by simp [Work.isData, Option.isSome_iff_ne_none, hd]
  have hn : r.needsReport st = true := by simp [Record.needsReport, he]
  have hnd : st ≠ .done := by rintro rfl; simp [Status.isError] at he
  have hrep : ∀ P : Port, P.moved = (s.port p).moved → P.endTaken = (s.port p).endTaken →
      P.repeats = (s.port p).repeats → P.recordReport p r st d = (s.port p).errorReport p r st d := by
    intro P h1 h2 h3
    cases hdir : r.work.dir with
    | none => exact absurd hdir hd
    | some dd =>
      have hnd' : (st == .done) = false := beq_eq_false_iff_ne.mpr hnd
      cases dd <;> simp [Port.recordReport, Port.errorReport, hda, h1, h2, h3, hdir, hnd']
  have hend : s.endHere p st d =
      (((s.releaseBy p).dropLatch p).modPort p fun P => (P.endBurst).endEffects r st).retire p st true
        ((s.port p).errorReport p r st d) := by
    rw [State.endHere, State.recordEnd_eq hcur, hn, hrep]
    all_goals simp [Port.endEffects, hda, Port.messageEffects_error he, Port.endBurst, Port.setLatch]
  have hgb : ∀ t : State, t.arbiter = (s.releaseBy p).arbiter → t.access = (s.releaseBy p).access →
      t.win = (s.releaseBy p).win → s.GivenBackBy t p := by
    intro t h1 h2 h3
    unfold State.GivenBackBy
    split
    · rename_i hh
      simp [h1, h2, h3, State.releaseBy_of_held s hh, State.release]
    · rename_i hh
      simp [h1, h2, h3, State.releaseBy_of_not_held s hh]
  by_cases hlen : s.reports.entries.length < 32
  · have hport : (s.endHere p st d).port p =
        { (s.port p).haltedAt r.work st with dirLine := (s.port p).dirLine } := by
      rw [hend, State.retire_posted (by simpa using hlen), State.port_mk, State.getElem_ports, State.port_modPort_same,
        State.port_modPort_same, State.dropLatch_port_same, State.releaseBy_port, Port.halted_before_settle he hd]
    have hs : (s.endHere p st d).serve p = (s.endHere p st d).modPort p Port.settle :=
      State.serve_of_not_idle (by rw [hport]; simp [Port.haltedAt])
    rw [hs]
    refine ⟨fun _ => ⟨?_, ?_⟩, fun h => absurd h (by omega), ?_, fun q hqp => ?_, hgb _ ?_ ?_ ?_, by simp, by simp,
      by simp⟩
    · rw [State.port_modPort_same, hport, Port.settle_of_idle_or_halted (.inr rfl)]
      · simp [Port.haltedAt]
      · refine Port.currentData_of_queued fun slot hs => ?_
        have : slot ∈ rest := by
          have := List.mem_of_mem_head? hs
          simpa [Port.haltedAt, hq] using this
        simp [hrest slot this]
    all_goals first
      | (rw [hend, State.retire_posted (by simpa using hlen)]; simp; done)
      | rw [State.port_modPort_ne _ _ hqp, State.endHere_port_ne _ hqp]
  · have hport : (s.endHere p st d).port p = (s.port p).blockedAt r st ((s.port p).errorReport p r st d) := by
      rw [hend, State.retire_blocks (by simpa using hlen), State.port_mk, State.getElem_ports, State.port_modPort_same,
        State.port_modPort_same, State.dropLatch_port_same, State.releaseBy_port, Port.blocked_before_settle he hd hq]
    have hs : (s.endHere p st d).serve p = (s.endHere p st d).modPort p Port.settle :=
      State.serve_of_not_idle (by rw [hport]; simp [Port.blockedAt])
    rw [hs]
    refine ⟨fun h => absurd h hlen, fun _ => ⟨?_, ?_⟩, ?_, fun q hqp => ?_, hgb _ ?_ ?_ ?_, by simp, by simp, by simp⟩
    · rw [State.port_modPort_same, hport, Port.settle_of_none]
      · exact Port.currentData_of_queued (by simp [Port.blockedAt])
      · simp [Port.discards, Port.blockedAt]
    all_goals first
      | (rw [hend, State.retire_blocks (by simpa using hlen)]; simp; done)
      | rw [State.port_modPort_ne _ _ hqp, State.endHere_port_ne _ hqp]

/-- The message effects of a DONE or SHORT end, field by field (R50, R51, R58). -/
theorem Port.messageEffects_normal {st : Status} (hst : st = .done ∨ st = .short) (w : Work) (P : Port) :
    P.messageEffects w st = { P with
      msgOpen := P.msgOpen && w.cont && !P.endSetsSkip w st, skip := w.cont && (P.skip || P.endSetsSkip w st)
      wordsPassed := P.wordsPassed && w.cont, endPassed := P.endPassed && w.cont } := by
  have hc : st.cutsMessage = false ∧ st ≠ .overrun := by rcases hst with rfl | rfl <;> exact ⟨rfl, by simp⟩
  have hE : w.cont = false → P.endSetsSkip w st = false := fun h => by simp [Port.endSetsSkip, h]
  unfold Port.messageEffects
  simp only [hc.1, if_neg hc.2, Bool.false_eq_true, if_false]
  cases hcc : w.cont
  · simp [hE hcc, Port.closeMessage]
  · cases hee : P.endSetsSkip w st <;> simp [Port.setSkip]

/-- A DONE or SHORT end of the only record of a RUNNING port with no pause pending: the data path given back, the port IDLE,
its report posted if the record asks for one. -/
theorem State.endHere_idles {s : State} {p : PortId} {r : Record} {st : Status}
    (hq : (s.port p).queue = [⟨r, .current⟩]) (hd : r.work.dir ≠ none) (hst : st = .done ∨ st = .short)
    (hrun : (s.port p).state = .running) (hpp : (s.port p).pausePending = false) (hrs : (s.port p).resync = false)
    (hlen : s.reports.entries.length < 32) (d : Detail) :
    let t := (s.endHere p st d).serve p
    let P := s.port p
    t.port p = { P with
      queue := [], heldReport := none, state := .idle, phase := .none, inHand := none, lookupRequest := false
      cut := none, stallTimer := none, abortPending := false, latch := none
      msgOpen := P.msgOpen && r.work.cont && !P.endSetsSkip r.work st
      skip := r.work.cont && (P.skip || P.endSetsSkip r.work st)
      wordsPassed := P.wordsPassed && r.work.cont, endPassed := P.endPassed && r.work.cont } ∧
    t.reports = (if r.reportAlways then s.reports.post (P.recordReport p r st d) else s.reports) ∧
    t.map = s.map.leaveFence p ∧ (∀ q, q ≠ p → t.port q = s.port q) ∧ s.GivenBackBy t p ∧
    t.attn = s.attn ∧ t.time = s.time ∧ t.pending = s.pending := by
  intro t P
  have hda : r.work.isData = true := by simp [Work.isData, Option.isSome_iff_ne_none, hd]
  have hnm : r.work ≠ .mark := by rintro hh; simp [hh, Work.dir] at hd
  have hne : st.isError = false := by rcases hst with rfl | rfl <;> rfl
  have hn : r.needsReport st = r.reportAlways := by simp [Record.needsReport, hne, hnm]
  have hcur : ((s.releaseBy p).port p).current = some r := by simp [Port.current, hq]
  have hend : s.endHere p st d =
      { ((s.releaseBy p).dropLatch p).modPort p
          (fun P => ((P.endBurst).endEffects r st).completeRetirement st) with
        reports := if r.reportAlways then s.reports.post (P.recordReport p r st d) else s.reports } := by
    simp only [State.endHere, State.recordEnd, hcur, hn]
    cases hra : r.reportAlways
    · rw [State.retire_unreported, State.modPort_modPort]
      apply State.ext_ports <;> simp
    · rw [State.retire_posted (by simpa using hlen)]
      simp only [State.modPort_modPort, State.modPort_reports, State.dropLatch_reports, State.releaseBy_reports,
        State.port_modPort_same, State.dropLatch_port_same, State.releaseBy_port]
      simp [Port.endEffects, hda, Port.messageEffects_normal hst, Port.endBurst, Port.setLatch, Port.recordReport, P]
  have hport : (s.endHere p st d).port p = { P with
      queue := [], heldReport := none, state := .idle, phase := .none, inHand := none, lookupRequest := false
      cut := none, stallTimer := none, abortPending := false, latch := none
      msgOpen := P.msgOpen && r.work.cont && !P.endSetsSkip r.work st
      skip := r.work.cont && (P.skip || P.endSetsSkip r.work st)
      wordsPassed := P.wordsPassed && r.work.cont, endPassed := P.endPassed && r.work.cont } := by
    rw [hend, State.port_mk, State.getElem_ports, State.port_modPort_same, State.dropLatch_port_same,
      State.releaseBy_port]
    simp only [Port.endEffects, hda, if_true, Port.messageEffects_normal hst, Port.completeRetirement, hne]
    simp [Port.endSetsSkip, Port.endBurst, Port.setLatch, hpp, hrun, hq, P]
  have hs : t = (s.endHere p st d).modPort p Port.settle :=
    State.serve_of_examine (State.examine_of_empty (by rw [hport]))
  rw [hs]
  refine ⟨?_, ?_, ?_, fun q hqp => ?_, ?_, by simp, by simp, by simp⟩
  · rw [State.port_modPort_same, hport, Port.settle_of_idle_or_halted (.inl rfl)]
    · simp [hrs, P]
    · exact Port.currentData_of_queued (by simp)
  · rw [hend]; rfl
  · rw [hend]; simp
  · rw [State.port_modPort_ne _ _ hqp, State.endHere_port_ne _ hqp]
  · rw [hend]
    unfold State.GivenBackBy
    split
    · rename_i hh
      simp [State.releaseBy_of_held s hh, State.release]
    · rename_i hh
      simp [State.releaseBy_of_not_held s hh]

end Sys2Proof.Machine
end

