-- ==== Sys2Proof/Laws/Map.lean ====
section
/-! SUPPORT. The window map's table: a read after a write of the same entry gives what was written, a write leaves every other
entry alone, and every operation keeps the canonical form. Also what leaving the fence set can change. -/

namespace Sys2Proof.Machine

/-! ### Canonical lists -/

/-- Keys strictly rising, no entry as initialised. -/
abbrev CanonicalEntries (l : List (Nat × MapEntry)) : Prop :=
  l.Pairwise (fun a b => a.1 < b.1) ∧ ∀ x ∈ l, x.1 < 1024 ∧ x.2 ≠ .initial

/-- An index that no key reaches reads as initialised. -/
theorem entryAt_of_notMem {l : List (Nat × MapEntry)} {i : Nat} (h : ∀ x ∈ l, x.1 ≠ i) : entryAt l i = .initial := by
  induction l with
  | nil => rfl
  | cons x rest ih =>
    have hx := h x (by simp)
    simp only [entryAt, if_neg hx]
    exact ih fun y hy => h y (by simp [hy])

/-- Every key of a written list is a key of the list before, or the written one. -/
theorem mem_putEntry {l : List (Nat × MapEntry)} {i : Nat} {e : MapEntry} {x : Nat × MapEntry}
    (hx : x ∈ putEntry l i e) : x ∈ l ∨ (x = (i, e) ∧ e ≠ .initial) := by
  induction l with
  | nil =>
    simp only [putEntry] at hx
    split at hx
    · simp at hx
    · rename_i he; exact .inr ⟨by simpa using hx, he⟩
  | cons y rest ih =>
    obtain ⟨k, z⟩ := y
    simp only [putEntry] at hx
    by_cases h1 : i < k
    · simp only [if_pos h1] at hx
      split at hx
      · exact .inl hx
      · rename_i he
        rcases List.mem_cons.mp hx with rfl | hx
        · exact .inr ⟨rfl, he⟩
        · exact .inl hx
    · simp only [if_neg h1] at hx
      by_cases h2 : i = k
      · simp only [if_pos h2] at hx
        split at hx
        · exact .inl (List.mem_cons_of_mem _ hx)
        · rename_i he
          rcases List.mem_cons.mp hx with rfl | hx
          · exact .inr ⟨rfl, he⟩
          · exact .inl (List.mem_cons_of_mem _ hx)
      · simp only [if_neg h2] at hx
        rcases List.mem_cons.mp hx with rfl | hx
        · exact .inl (by simp)
        · rcases ih hx with h | h
          · exact .inl (List.mem_cons_of_mem _ h)
          · exact .inr h

/-- A write keeps the keys strictly rising. -/
theorem putEntry_pairwise {l : List (Nat × MapEntry)} (hl : l.Pairwise fun a b => a.1 < b.1) (i : Nat) (e : MapEntry) :
    (putEntry l i e).Pairwise fun a b => a.1 < b.1 := by
  induction l with
  | nil => unfold putEntry; split <;> simp
  | cons y rest ih =>
    obtain ⟨k, z⟩ := y
    obtain ⟨hk, hrest⟩ := List.pairwise_cons.mp hl
    simp only [putEntry]
    by_cases h1 : i < k
    · simp only [if_pos h1]
      split
      · exact hl
      · refine List.pairwise_cons.mpr ⟨fun b hb => ?_, hl⟩
        rcases List.mem_cons.mp hb with rfl | hb
        · exact h1
        · exact lt_trans h1 (hk b hb)
    · simp only [if_neg h1]
      by_cases h2 : i = k
      · simp only [if_pos h2]
        split
        · exact hrest
        · exact List.pairwise_cons.mpr ⟨fun b hb => h2 ▸ hk b hb, hrest⟩
      · simp only [if_neg h2]
        refine List.pairwise_cons.mpr ⟨fun b hb => ?_, ih hrest⟩
        rcases mem_putEntry hb with hb | ⟨rfl, _⟩
        · exact hk b hb
        · exact Nat.lt_of_le_of_ne (Nat.le_of_not_lt h1) (Ne.symm h2)

/-- A write of an entry below 1024 keeps the canonical form. -/
theorem putEntry_canonical {l : List (Nat × MapEntry)} (hl : CanonicalEntries l) {i : Nat} (hi : i < 1024)
    (e : MapEntry) : CanonicalEntries (putEntry l i e) := by
  refine ⟨putEntry_pairwise hl.1 i e, fun x hx => ?_⟩
  rcases mem_putEntry hx with h | ⟨rfl, he⟩
  · exact hl.2 x h
  · exact ⟨hi, he⟩

/-- A read of the written entry gives what was written. -/
theorem entryAt_putEntry_same {l : List (Nat × MapEntry)} (hl : l.Pairwise fun a b => a.1 < b.1) (i : Nat)
    (e : MapEntry) : entryAt (putEntry l i e) i = e := by
  induction l with
  | nil =>
    unfold putEntry
    split
    · rename_i h; simp [entryAt, h]
    · simp [entryAt]
  | cons y rest ih =>
    obtain ⟨k, z⟩ := y
    obtain ⟨hk, hrest⟩ := List.pairwise_cons.mp hl
    simp only [putEntry]
    by_cases h1 : i < k
    · simp only [if_pos h1]
      split
      · rename_i he
        rw [he]
        refine entryAt_of_notMem fun x hx => ?_
        rcases List.mem_cons.mp hx with rfl | hx
        · exact Nat.ne_of_gt h1
        · exact Nat.ne_of_gt (lt_trans h1 (hk x hx))
      · simp [entryAt]
    · simp only [if_neg h1]
      by_cases h2 : i = k
      · simp only [if_pos h2]
        split
        · rename_i he
          rw [he]
          exact entryAt_of_notMem fun x hx => h2 ▸ Nat.ne_of_gt (hk x hx)
        · simp [entryAt]
      · simp only [if_neg h2, entryAt, if_neg (Ne.symm h2)]
        exact ih hrest

/-- A write leaves every other entry alone. -/
theorem entryAt_putEntry_ne {l : List (Nat × MapEntry)} {i j : Nat} (h : j ≠ i) (e : MapEntry) :
    entryAt (putEntry l i e) j = entryAt l j := by
  induction l with
  | nil =>
    unfold putEntry
    split
    · rfl
    · simp [entryAt, Ne.symm h]
  | cons y rest ih =>
    obtain ⟨k, z⟩ := y
    simp only [putEntry]
    by_cases h1 : i < k
    · simp only [if_pos h1]
      split
      · rfl
      · simp [entryAt, Ne.symm h]
    · simp only [if_neg h1]
      by_cases h2 : i = k
      · simp only [if_pos h2]
        subst h2
        split <;> simp [entryAt, Ne.symm h]
      · simp only [if_neg h2, entryAt]
        split
        · rfl
        · exact ih

/-! ### The map's operations -/

/-- A read of the entry just replaced. -/
theorem MapUnit.entry_setEntry_same {m : MapUnit} (hm : m.wf) (i : Nat) (e : MapEntry) :
    (m.setEntry i e).entry i = e := entryAt_putEntry_same hm.1 i e

/-- Replacing an entry leaves every other one alone. -/
theorem MapUnit.entry_setEntry_ne (m : MapUnit) {i j : Nat} (h : j ≠ i) (e : MapEntry) :
    (m.setEntry i e).entry j = m.entry j := entryAt_putEntry_ne h e

/-- Replacing an entry below 1024 keeps the canonical form. -/
theorem MapUnit.wf_setEntry {m : MapUnit} (hm : m.wf) {i : Nat} (hi : i < 1024) (e : MapEntry) :
    (m.setEntry i e).wf := putEntry_canonical hm hi e

/-- Writing an entry below 1024 keeps the canonical form. -/
theorem MapUnit.wf_writeEntry {m : MapUnit} (hm : m.wf) {i : Nat} (hi : i < 1024) (c : MapContents) :
    (m.writeEntry i c).wf := MapUnit.wf_setEntry hm hi _

/-- A detection of an entry below 1024 keeps the canonical form. -/
theorem MapUnit.wf_detect {m : MapUnit} (hm : m.wf) {i : Nat} (hi : i < 1024) : (m.detect i).wf := by
  unfold MapUnit.detect
  dsimp only
  split
  · exact hm
  · split
    · exact hm
    · exact MapUnit.wf_setEntry hm hi _
    · exact MapUnit.wf_setEntry hm hi _

/-- What a detection can do: it changes the entry read, and sets CORRECTED with the count or POISONED. -/
theorem MapUnit.detect_spec {m : MapUnit} (hm : m.wf) (i : Nat) :
    (m.detect i).entry i = (m.entry i).detected ∧ ∀ j, j ≠ i → (m.detect i).entry j = m.entry j := by
  unfold MapUnit.detect
  dsimp only
  by_cases hp : (m.entry i).poisoned = true
  · simp [hp, MapEntry.detected]
  · simp only [hp]
    cases hd : (m.entry i).disturbance with
    | none => simp [MapEntry.detected, hd]
    | oneBit => exact ⟨MapUnit.entry_setEntry_same hm i _, fun j hj => MapUnit.entry_setEntry_ne m hj _⟩
    | twoBits => exact ⟨MapUnit.entry_setEntry_same hm i _, fun j hj => MapUnit.entry_setEntry_ne m hj _⟩

/-- The map right after reset has the canonical form. -/
theorem MapUnit.wf_powerOn : MapUnit.powerOn.wf := by simp [MapUnit.wf, MapUnit.powerOn]

/-! ### Leaving the fence set (R139) -/

/-- Leaving the fence set erases the port from it and can complete the fence; nothing else of the map unit changes. -/
theorem MapUnit.leaveFence_eq (m : MapUnit) (p : PortId) :
    m.leaveFence p =
      { m with
        fenceSet := (m.leaveFence p).fenceSet, fencePending := (m.leaveFence p).fencePending
        fenceEnd := (m.leaveFence p).fenceEnd } := by
  unfold MapUnit.leaveFence
  split
  · dsimp only
    split <;> rfl
  · rfl

/-- Membership of a set with a port taken out. -/
theorem PortSet.mem_erase (S : PortSet) (p q : PortId) : (S.erase p).mem q = (S.mem q && decide (q ≠ p)) := by
  unfold PortSet.mem PortSet.erase
  rw [Vector.getElem_set]
  by_cases h : p.val = q.val
  · have : q = p := Fin.ext h.symm
    simp [h, this]
  · have : q ≠ p := fun hq => h (by rw [hq])
    simp [h, this]

/-- Membership of a set with a port added. -/
theorem PortSet.mem_insert (S : PortSet) (p q : PortId) : (S.insert p).mem q = (S.mem q || decide (q = p)) := by
  unfold PortSet.mem PortSet.insert
  rw [Vector.getElem_set]
  by_cases h : p.val = q.val
  · have : q = p := Fin.ext h.symm
    simp [h, this]
  · have : q ≠ p := fun hq => h (by rw [hq])
    simp [h, this]

/-- Two sets with the same members are the same set. -/
theorem PortSet.ext_mem {S T : PortSet} (h : ∀ p : PortId, S.mem p = T.mem p) : S = T := by
  apply Vector.ext
  intro i hi
  exact h ⟨i, hi⟩

/-- Every port is among the eight. -/
theorem mem_allPorts (p : PortId) : p ∈ allPorts := by
  revert p
  decide

/-- A set is empty when no port is in it. -/
theorem PortSet.isEmpty_iff (S : PortSet) : S.isEmpty = true ↔ ∀ p : PortId, S.mem p = false := by
  constructor
  · intro h p
    have := List.all_eq_true.mp h p (mem_allPorts p)
    simpa using this
  · intro h
    exact List.all_eq_true.mpr fun p _ => by simp [h p]

/-- The set after a port has left the fence. -/
theorem MapUnit.leaveFence_mem (m : MapUnit) (p q : PortId) :
    (m.leaveFence p).fenceSet.mem q = (m.fenceSet.mem q && decide (q ≠ p)) := by
  unfold MapUnit.leaveFence
  by_cases hm : m.fenceSet.mem p = true
  · simp only [hm, if_true]
    split <;> exact PortSet.mem_erase _ _ _
  · simp only [hm]
    by_cases hq : q = p
    · subst hq; simp [hm]
    · simp [hq]

end Sys2Proof.Machine
end

