-- ==== Sys2Proof/Laws/Posts.lean ====
section
/-! SUPPORT. Operand forms: the POST checks in the terms of Safety.lean, what POST does with their answer, directions,
addresses, and the words that carry map entries. -/

namespace Sys2Proof.Machine

/-! ### Directions and addresses -/

theorem Work.isData_of_dir {w : Work} (h : w.dir ≠ none) : w.isData = true := by
  simp [Work.isData, Option.isSome_iff_ne_none, h]

/-- An unmapped record's physical address (R89). -/
theorem Work.physicalAddress_unmapped {w : Work} {l : Option Latch} {n : Nat} (h : w.mapped = false) :
    w.physicalAddress l n = w.address.toNat + 4 * n := by
  simp [Work.physicalAddress, h, Work.wordAddress]

/-- A mapped record's physical address through a valid latch (R89). -/
theorem Work.physicalAddress_mapped {w : Work} {l : Latch} {n : Nat} (h : w.mapped = true) :
    w.physicalAddress (some l) n = 4096 * l.frame.toNat + (w.address.toNat + 4 * n) % 4096 := by
  simp [Work.physicalAddress, h, Work.wordAddress, pageBytes, Nat.mul_comm]

/-- The fields of a map entry word (Table 11-8). -/
theorem mapContentsOfWord_eq (w : Word) :
    mapContentsOfWord w = ⟨BitVec.ofNat 20 (w.toNat / 4096), w.getLsbD 0, w.getLsbD 1, w.getLsbD 2⟩ := by
  simp only [mapContentsOfWord, flag, MapContents.mk.injEq, and_true]
  apply BitVec.eq_of_toNat_eq
  simp [bits, BitVec.extractLsb'_toNat, Nat.shiftRight_eq_div_pow]

/-- What a MAPDATA word shows of an entry (Table 11-8). -/
theorem MapEntry.toWord_fields (e : MapEntry) :
    e.toWord.toNat / 4096 = e.contents.frame.toNat ∧ e.toWord.getLsbD 0 = e.contents.valid ∧
    e.toWord.getLsbD 1 = e.contents.read ∧ e.toWord.getLsbD 2 = e.contents.write ∧ e.toWord.getLsbD 3 = e.poisoned ∧
    e.toWord.toNat / 16 % 256 = 0 := by
  obtain ⟨⟨f, v, r, w⟩, p, d⟩ := e
  have hf := f.isLt
  have ht : (MapEntry.toWord ⟨⟨f, v, r, w⟩, p, d⟩).toNat =
      bitOf v + 2 * bitOf r + 4 * bitOf w + 8 * bitOf p + 4096 * f.toNat := by
    simp only [MapEntry.toWord, BitVec.toNat_ofNat]
    apply Nat.mod_eq_of_lt
    cases v <;> cases r <;> cases w <;> cases p <;> simp [bitOf] <;> omega
  have tb : ∀ i, (MapEntry.toWord ⟨⟨f, v, r, w⟩, p, d⟩).getLsbD i =
      ((MapEntry.toWord ⟨⟨f, v, r, w⟩, p, d⟩).toNat / 2 ^ i % 2 == 1) := by
    intro i; rw [BitVec.getLsbD, Nat.testBit_eq_decide_div_mod_eq]; rfl
  simp only [tb, ht]
  cases v <;> cases r <;> cases w <;> cases p <;> simp [bitOf] <;> omega

/-! ### The POST checks -/

theorem Work.permissionReason_of_permits {P : Port} {w : Work} (h : P.Permits w) :
    w.permissionReason P.config = .accepted := by
  obtain ⟨h1, h2⟩ := h
  cases w <;> simp_all [Work.permissionReason, Work.isMove, Work.mapped, Work.address]
  rcases h1 with h1 | h1 <;> simp [h1]

theorem Port.tailOpen_of_open {P : Port} {d : Direction} (h : P.TailOpenIn d) : P.tailOpen = some d := by
  unfold Port.tailOpen
  rcases h with ⟨slot, h1, h2, h3⟩ | ⟨h1, h2, h3⟩
  · simp at h1; simp [h1, h2, h3]
  · simp [h1, h2, h3]

theorem Port.tailOpen_of_closed {P : Port} (h : P.TailClosed) : P.tailOpen = none := by
  unfold Port.tailOpen
  rcases h with ⟨slot, h1, h2⟩ | ⟨h1, h2, h3⟩
  · simp at h1; simp [h1, h2]
  · simp [h1, h2, h3]

theorem Work.tailReason_of_takes {P : Port} {w : Work} (h : P.TailTakes w) : w.tailReason P.tailOpen = .accepted := by
  rcases h with h | ⟨d, h1, h2⟩
  · simp [Port.tailOpen_of_closed h, Work.tailReason]
  · simp [Port.tailOpen_of_open h2, Work.tailReason, h1]

/-- An image that passes every check is accepted (Table 1-3). -/
theorem postReason_accepted {w : HostWindow} {P : Port} {r : Record} {n : Nat} (hs : P.state ≠ .resetting)
    (hr : stagedRecord w = some r) (ha : r.Accepted) (hpm : P.Permits r.work) (ht : P.TailTakes r.work)
    (hq : P.queue.length < P.config.queueQuota) (ho : n < 64) : postReason w P n = .accepted := by
  have h1 := Nat.not_le.mpr hq
  have h2 := Nat.not_le.mpr ho
  simp only [postReason, hs, hr, if_false]
  rw [if_neg (not_not.mpr ha), if_neg (not_not.mpr (Work.permissionReason_of_permits hpm)),
    if_neg (not_not.mpr (Work.tailReason_of_takes ht)), if_neg h1, if_neg h2]

/-- A POST that a check refuses changes RESULT alone (R5). -/
theorem State.post_refused {s : State} {p : PortId} {why : Reason}
    (h : postReason s.win (s.port p) s.occupied = why) (hw : why ≠ .accepted) :
    s.post p = s.refuse 1 why (s.port p).queue.length := by
  unfold State.post; rw [h]; cases why <;> first | exact absurd rfl hw | rfl

/-- A POST that every check passes appends the record and lets an IDLE port examine its head (R12, R22). -/
theorem State.post_accepted {s : State} {p : PortId} {r : Record}
    (h : postReason s.win (s.port p) s.occupied = .accepted) (hr : stagedRecord s.win = some r) :
    s.post p = ((s.modPort p (Port.append r)).accept 1 ((s.port p).queue.length + 1)).serveIdle p := by
  unfold State.post; rw [h, hr]

end Sys2Proof.Machine
end

