-- ==== Sys2Proof/Laws/Bursts.lean ====
section
/-! SUPPORT. Heads taken up, transfer phases that end without a record end, error ends read back to an earlier state, and
the commit of a patch. -/

namespace Sys2Proof.Machine

/-! ### Heads -/

/-- A data head taken up with SKIP clear (R19, R20, R22). -/
theorem Port.takeUp_serving {P : Port} {r : Record} {rest : List Slot} {d : Direction} (hd : r.work.dir = some d)
    (hs : P.skip = false) : P.takeUp r rest = { P.serving r rest d with skip := false } := by
  by_cases hm : P.msgOpen = true <;> simp [Port.takeUp, Port.serving, hd, hs, hm]

/-- A PATCH head taken up (R20, R22). -/
theorem Port.takeUp_claiming {P : Port} {r : Record} {rest : List Slot} {a : Word} (hd : r.work = .patch a) :
    P.takeUp r rest = P.claiming r rest := by
  simp [Port.takeUp, Port.claiming, hd, Work.dir]

/-- Nothing begins at a port with a current MOVE, or one that is not ready for a burst. -/
theorem Port.settle_of_serving {P : Port} {r : Record} {rest : List Slot} (hq : P.queue = ⟨r, .current⟩ :: rest)
    (hd : r.work.dir ≠ none) (h : r.work.isMove = true ∨ P.readyForBurst = false) : P.settle = P := by
  rcases h with h | h
  · exact Port.settle_of_move (Port.currentData_of_queue hq hd) h
  · exact Port.settle_of_not_ready (Port.currentData_of_queue hq hd) h

/-! ### Latches and claims -/

/-- A latch load (R116, R118, R120). -/
theorem State.loadLatch_eq (s : State) (p : PortId) (l : Latch) :
    s.loadLatch p l = { s.setPort p { s.port p with latch := some l } with
      map := if (s.port p).latch.isSome then s.map.leaveFence p else s.map } := by
  simp [State.loadLatch, State.modPort_eq, Port.setLatch]

/-- A claim taken by the engine (R129). -/
theorem State.takeClaim_eq (s : State) (origin : Origin) (a : Word) (p : PortId) :
    s.takeClaim origin a p = { s with map := { s.map with engine := some (.taken origin a p (s.port p).window) } } := rfl

/-- A claim raised with the engine FREE is taken at once (R131). -/
theorem State.raiseClaim_free {s : State} (p : PortId) (a : Word) (h : s.map.engine = none) :
    s.raiseClaim p a = s.takeClaim (.port p) a p := by simp [State.raiseClaim, h]

/-- A claim raised with a patch in flight waits (R131). -/
theorem State.raiseClaim_waits {s : State} (p : PortId) (a : Word) (h : s.map.engine ≠ none) :
    s.raiseClaim p a = { s with map := { s.map with waiting := s.map.waiting.insert p } } := by
  cases he : s.map.engine with
  | none => exact absurd he h
  | some f => simp [State.raiseClaim, he]

/-! ### Ends of transfer phases -/

/-- A transfer phase that ends with no pending action (R75, R94, R96). -/
theorem State.transferEnd_eq {s : State} {p : PortId} {r : Record} {rest : List Slot}
    (hq : (s.port p).queue = ⟨r, .current⟩ :: rest) (hd : r.work.dir ≠ none) (ha : (s.port p).abortPending = false)
    (hp : (s.port p).pausePending = false) (hlr : (s.port p).lookupRequest = false) (hcut : (s.port p).cut = none) :
    s.transferEnd p = (s.releaseBy p).setPort p { s.port p with
      inHand := none
      phase := if r.work.dir = some .outbound ∧ 0 < (s.port p).exchanged then .confirming else .waiting } := by
  have hc := Port.currentData_of_queue hq hd
  simp only [State.transferEnd, hc]
  by_cases h : r.work.dir = some .outbound ∧ 0 < (s.port p).exchanged
  · rw [if_pos h, if_pos h]; simp [State.confirm, State.modPort_eq]
  · rw [if_neg h, if_neg h]; simp [State.burstOver, ha, hp, State.modPort_eq, hlr, hcut]

/-- A release by a port gives its data path back. -/
theorem State.givenBackBy_release {s : State} {p : PortId} {P : Port} :
    s.GivenBackBy ((s.releaseBy p).setPort p P) p := by
  unfold State.GivenBackBy
  split
  · rename_i hh; simp [State.releaseBy_of_held s hh, State.release]
  · rename_i hh; simp [State.releaseBy_of_not_held s hh]

/-! ### Error ends -/

/-- An error end after a change of the port's own context. -/
theorem State.failsAt_of_modPort {s t : State} {p : PortId} {f : Port → Port} {P : Port} {r : Record} {st : Status}
    {d : Detail} (h : (s.modPort p f).FailsAt t p P r st d) : s.FailsAt t p P r st d := by
  obtain ⟨h1, h2, h3, h4, h5, h6, h7, h8⟩ := h
  refine ⟨h1, h2, h3, fun q hq => ?_, h5, h6, h7, h8⟩
  rw [h4 q hq]; simp [hq]

/-- An error end of the holder after its access has ended. -/
theorem State.failsAt_of_access {s t : State} {p : PortId} {P : Port} {r : Record} {st : Status} {d : Detail}
    (hh : s.arbiter.holder = .port p) (h : ({ s with access := none } : State).FailsAt t p P r st d) :
    s.FailsAt t p P r st d := by
  obtain ⟨h1, h2, h3, h4, h5, h6, h7, h8⟩ := h
  refine ⟨h1, h2, h3, h4, ?_, h6, h7, h8⟩
  unfold State.GivenBackBy at h5 ⊢
  rw [if_pos hh] at h5
  rw [if_pos hh]; exact h5

/-! ### The commit of a patch (R136) -/

theorem MapUnit.commit_append (m : MapUnit) (a b : List (Nat × MapContents)) :
    m.commit (a ++ b) = (m.commit a).commit b := by
  simp [MapUnit.commit, List.foldl_append]

/-- A commit leaves every entry that no pair names. -/
theorem MapUnit.entry_commit_ne (pairs : List (Nat × MapContents)) (m : MapUnit) (j : Nat)
    (h : ∀ pair ∈ pairs, pair.1 ≠ j) : (m.commit pairs).entry j = m.entry j := by
  induction pairs generalizing m with
  | nil => rfl
  | cons x rest ih =>
    show ((m.writeEntry x.1 x.2).commit rest).entry j = m.entry j
    rw [ih _ fun y hy => h y (by simp [hy])]
    exact MapUnit.entry_setEntry_ne _ (Ne.symm (h x (by simp))) _

/-- A commit changes the entries alone. -/
theorem MapUnit.commit_eq (pairs : List (Nat × MapContents)) (m : MapUnit) :
    m.commit pairs = { m with entries := (m.commit pairs).entries } := by
  induction pairs generalizing m with
  | nil => rfl
  | cons x rest ih =>
    show (m.writeEntry x.1 x.2).commit rest = _
    rw [ih]; rfl

theorem MapUnit.pairwise_commit (pairs : List (Nat × MapContents)) (m : MapUnit)
    (h : m.entries.Pairwise (fun a b => a.1 < b.1)) : (m.commit pairs).entries.Pairwise (fun a b => a.1 < b.1) := by
  induction pairs generalizing m with
  | nil => exact h
  | cons x rest ih => exact ih _ (putEntry_pairwise h _ _)

/-- An entry holds the last pair that names it. -/
theorem MapUnit.entry_commit_last {m : MapUnit} (hm : m.wf) (before after : List (Nat × MapContents)) (j : Nat)
    (c : MapContents) (h : ∀ pair ∈ after, pair.1 ≠ j) :
    (m.commit (before ++ (j, c) :: after)).entry j = ⟨c, false, .none⟩ := by
  rw [MapUnit.commit_append]
  show (((m.commit before).writeEntry j c).commit after).entry j = _
  rw [MapUnit.entry_commit_ne after _ j h]
  exact entryAt_putEntry_same (MapUnit.pairwise_commit before m hm.1) _ _

end Sys2Proof.Machine
end

