-- ==== Sys2Proof/Laws/Reports.lean ====
section
/-! SUPPORT. The report queue's operations: what each leaves in the queue's fields, and that each keeps the queue's law. -/

namespace Sys2Proof.Machine

/-! ### What a raising, a posting and a removal leave -/

@[simp] theorem ReportQueue.raise_length (q : ReportQueue) : q.raise.entries.length = q.entries.length := by
  simp [ReportQueue.raise]
@[simp] theorem ReportQueue.raise_blocked (q : ReportQueue) : q.raise.blocked = q.blocked := rfl
@[simp] theorem ReportQueue.raise_threshold (q : ReportQueue) : q.raise.threshold = q.threshold := rfl
@[simp] theorem ReportQueue.raise_holdoff (q : ReportQueue) : q.raise.holdoff = q.holdoff := rfl
@[simp] theorem ReportQueue.raise_holdoffTimer (q : ReportQueue) : q.raise.holdoffTimer = none := rfl
@[simp] theorem ReportQueue.raise_reportDue (q : ReportQueue) : q.raise.reportDue = true := rfl

/-- Every entry of a raised queue is announced (R149). -/
theorem ReportQueue.raise_announced (q : ReportQueue) : ∀ e ∈ q.raise.entries, e.announced = true := by
  simp [ReportQueue.raise]

/-- A queue whose entries are all announced counts none unannounced. -/
theorem ReportQueue.unannounced_of_announced {q : ReportQueue} (h : ∀ e ∈ q.entries, e.announced = true) :
    q.unannounced = 0 := by
  simpa [ReportQueue.unannounced, List.filter_eq_nil_iff] using h

@[simp] theorem ReportQueue.raise_unannounced (q : ReportQueue) : q.raise.unannounced = 0 :=
  ReportQueue.unannounced_of_announced q.raise_announced

@[simp] theorem ReportQueue.append_length (q : ReportQueue) (r : Report) :
    (q.append r).entries.length = q.entries.length + 1 := by
  simp [ReportQueue.append]

@[simp] theorem ReportQueue.append_unannounced (q : ReportQueue) (r : Report) :
    (q.append r).unannounced = q.unannounced + 1 := by
  simp [ReportQueue.append, ReportQueue.unannounced]

@[simp] theorem ReportQueue.post_blocked (q : ReportQueue) (r : Report) : (q.post r).blocked = q.blocked := by
  unfold ReportQueue.post; split_ifs <;> rfl

@[simp] theorem ReportQueue.post_threshold (q : ReportQueue) (r : Report) : (q.post r).threshold = q.threshold := by
  unfold ReportQueue.post; split_ifs <;> rfl

@[simp] theorem ReportQueue.post_holdoff (q : ReportQueue) (r : Report) : (q.post r).holdoff = q.holdoff := by
  unfold ReportQueue.post; split_ifs <;> rfl

/-- A posting adds one entry (R142). -/
@[simp] theorem ReportQueue.post_length (q : ReportQueue) (r : Report) :
    (q.post r).entries.length = q.entries.length + 1 := by
  unfold ReportQueue.post; split_ifs <;> simp

@[simp] theorem ReportQueue.removeHead_blocked (q : ReportQueue) : q.removeHead.blocked = q.blocked := by
  unfold ReportQueue.removeHead; split
  · rfl
  · dsimp only; split_ifs <;> rfl

@[simp] theorem ReportQueue.removeHead_entries (q : ReportQueue) : q.removeHead.entries = q.entries.tail := by
  unfold ReportQueue.removeHead; split
  · simp_all
  · dsimp only; split_ifs <;> simp_all

/-! ### The law is kept -/

/-- A raising keeps the law. -/
theorem ReportQueue.law_raise {q : ReportQueue} (hl : q.entries.length ≤ 32) (h1 : 1 ≤ q.threshold)
    (h2 : q.threshold ≤ 32) (h3 : q.holdoff ≤ 255) : q.raise.Law := by
  refine ⟨by simpa using hl, h1, h2, h3, ?_, by simp, by simp; omega, by simp⟩
  exact List.Pairwise.imp_of_mem (fun ha _ _ h0 => by simp [q.raise_announced _ ha] at h0)
    (List.pairwise_of_forall (R := fun _ _ => True) fun _ _ => trivial)

/-- A posting into a queue with a free entry keeps the law (R142, R149, R150). -/
theorem ReportQueue.law_post {q : ReportQueue} (r : Report) (h : q.Law) (hl : q.entries.length < 32) :
    (q.post r).Law := by
  obtain ⟨-, h1, h2, h3, hp, ht, hu, hn⟩ := h
  have hp' : (q.append r).entries.Pairwise (fun a b => a.announced = false → b.announced = false) := by
    simp only [ReportQueue.append, List.pairwise_append]
    exact ⟨hp, by simp, by simp⟩
  unfold ReportQueue.post
  split_ifs with hr h0
  · exact ReportQueue.law_raise (by simp; omega) h1 h2 h3
  · have hlt : (q.append r).unannounced < q.threshold := by
      by_contra hc; exact hr (.inl (by omega))
    exact ⟨by simpa using hl, h1, h2, h3, hp',
      ⟨fun _ => by show 0 < (q.append r).unannounced; simp, fun _ => rfl⟩, hlt, by simp⟩
  · have hlt : (q.append r).unannounced < q.threshold := by
      by_contra hc; exact hr (.inl (by omega))
    refine ⟨by simpa using hl, h1, h2, h3, hp', ?_, hlt, hn⟩
    show q.holdoffTimer.isSome = true ↔ 0 < (q.append r).unannounced
    simp only [ReportQueue.append_unannounced]
    exact ⟨fun _ => by omega, fun _ => ht.mpr (by omega)⟩

/-- The removal of the head keeps the law (R145). -/
theorem ReportQueue.law_removeHead {q : ReportQueue} (h : q.Law) : q.removeHead.Law := by
  obtain ⟨hl, h1, h2, h3, hp, ht, hu, hn⟩ := h
  cases he : q.entries with
  | nil => rw [show q.removeHead = q by simp [ReportQueue.removeHead, he]]; exact ⟨hl, h1, h2, h3, hp, ht, hu, hn⟩
  | cons e rest =>
    have hcount : q.unannounced = ({ q with entries := rest } : ReportQueue).unannounced +
        (if e.announced then 0 else 1) := by
      simp only [ReportQueue.unannounced, he, List.filter_cons]
      cases e.announced <;> simp
    rw [he] at hl hp
    have hp' := (List.pairwise_cons.mp hp).2
    have hlen : rest.length ≤ 32 := by simp at hl; omega
    simp only [ReportQueue.removeHead, he]
    split_ifs with hc
    · simp only [Bool.and_eq_true, Bool.not_eq_true', beq_iff_eq] at hc
      have h0 := hc.2
      exact ⟨hlen, h1, h2, h3, hp', ⟨by simp, fun hh => by
        have : 0 < ({ q with entries := rest } : ReportQueue).unannounced := hh
        omega⟩, by
          show ({ q with entries := rest } : ReportQueue).unannounced < q.threshold
          omega, by simp⟩
    · refine ⟨hlen, h1, h2, h3, hp', ?_, ?_, hn⟩
      swap
      · show ({ q with entries := rest } : ReportQueue).unannounced < q.threshold
        omega
      show q.holdoffTimer.isSome = true ↔ _
      rw [ht]
      cases ha : e.announced
      · simp only [ha, Bool.not_false, Bool.true_and, beq_iff_eq] at hc
        constructor
        · intro _; omega
        · intro _; omega
      · simp [ha] at hcount; omega

end Sys2Proof.Machine
end

