-- ==== Sys2Proof/Laws/Retirements.lean ====
section
/-! SUPPORT. What the head of an IDLE port comes to, how a normal end retires its record, and what follows a burst that is over,
said once for each. -/

namespace Sys2Proof.Machine

/-! ### The head of an IDLE port -/

/-- A port that leaves the fence set twice leaves it once (R139). -/
@[simp] theorem MapUnit.leaveFence_leaveFence (m : MapUnit) (p : PortId) :
    (m.leaveFence p).leaveFence p = m.leaveFence p := by
  have h : ∀ x : MapUnit, x.fenceSet.mem p = false → x.leaveFence p = x := fun x hx => by simp [MapUnit.leaveFence, hx]
  exact h _ (by simp [MapUnit.leaveFence_mem])

/-- One head examined: a data record taken up with SKIP clear (R22). -/
theorem State.examineFuel_data {s : State} {p : PortId} {r : Record} {rest : List Slot} (n : Nat)
    (hi : (s.port p).state = .idle) (hq : (s.port p).queue = ⟨r, .queued⟩ :: rest) (hd : r.work.isData = true)
    (ha : (s.port p).attached = true) (hr : (s.port p).resync = false) (hs : (s.port p).skip = false) :
    State.examineFuel (n + 1) p s = s.setPort p ((s.port p).takeUp r rest) := by
  cases hw : r.work <;> simp [hw, Work.isData, Work.dir] at hd <;>
    simp [State.examineFuel, hi, hq, Port.mayBecomeCurrent, hw, Work.isData, Work.dir, ha, hr, Port.instantStatus, hs]

/-- One head examined: a data record that retires SKIPPED (R23). -/
theorem State.examineFuel_skipped {s : State} {p : PortId} {r : Record} {rest : List Slot} (n : Nat)
    (hi : (s.port p).state = .idle) (hq : (s.port p).queue = ⟨r, .queued⟩ :: rest) (hd : r.work.isData = true)
    (ha : (s.port p).attached = true) (hr : (s.port p).resync = false) (hs : (s.port p).skip = true) :
    State.examineFuel (n + 1) p s =
      State.examineFuel n p ((s.setPort p ((s.port p).takeUp r rest)).recordEnd p .skipped .absent) := by
  have hm : r.work ≠ .mark := by rintro h; simp [h, Work.isData, Work.dir] at hd
  simp [State.examineFuel, hi, hq, Port.mayBecomeCurrent, hd, ha, hr, Port.instantStatus, hs, hm]

/-- A record that retires SKIPPED without a report leaves its port to the next head (R23, R57, R61). -/
theorem State.skipped_eq {s : State} {p : PortId} {r : Record} {rest : List Slot} (hi : (s.port p).state = .idle)
    (hq : (s.port p).queue = ⟨r, .queued⟩ :: rest) (hd : r.work.dir ≠ none) (hs : (s.port p).skip = true)
    (hmo : (s.port p).msgOpen = false) (hp : (s.port p).pausePending = false) (hn : r.reportAlways = false) :
    (s.setPort p ((s.port p).takeUp r rest)).recordEnd p .skipped .absent =
      { s.setPort p { (s.port p).recordGone with
          moved := 0, position := 0, burstStart := 0, repeats := 0, burstLength := 0, exchanged := 0, endTaken := false
          skip := r.work.cont, wordsPassed := (s.port p).wordsPassed && r.work.cont
          endPassed := (s.port p).endPassed && r.work.cont } with map := s.map.leaveFence p } := by
  obtain ⟨d, hd'⟩ := Option.ne_none_iff_exists'.mp hd
  have hda : r.work.isData = true := by simp [Work.isData, hd']
  have hm : r.work ≠ .mark := by rintro h; simp [h, Work.dir] at hd'
  have hnr : r.needsReport .skipped = false := by simp [Record.needsReport, hn, Status.isError, hm]
  rw [State.recordEnd_eq (r := r) (by simp [Port.current, Port.takeUp, hd', hs]), hnr, State.retire_unreported,
    State.modPort_modPort, State.dropLatch]
  apply State.ext_ports <;> try rfl
  intro q
  by_cases hqp : q = p
  · subst hqp
    cases hc : r.work.cont <;>
      simp [State.port_mk, Port.takeUp, hd', hs, Port.endEffects, hda, Port.messageEffects, Status.cutsMessage,
        Port.endSetsSkip, hc, Port.closeMessage, Port.completeRetirement, Status.isError, hp, Port.endBurst, Port.setLatch,
        Port.recordGone, hq, hmo, hi]
  · simp [State.port_mk, hqp]

/-- The examination of a head, with fuel to spare, and what then begins. -/
theorem State.examineFuel_of_takesHead {p : PortId} {Q Q' : Port} (h : Q.TakesHead Q') :
    ∀ (n : Nat) (s : State), s.port p = Q → Q.state = .idle → Q.queue.length < n →
      s.map.leaveFence p = s.map ∨ Q.skip = false →
      (State.examineFuel n p s).modPort p Port.settle = s.setPort p Q' := by
  induction h with
  | @empty Q hq =>
    intro n s hp hi hn hf
    obtain ⟨n, rfl⟩ : ∃ m, n = m + 1 := ⟨n - 1, by omega⟩
    simp only [State.examineFuel, hp, hi, if_true, hq, State.modPort_eq]
    rw [Port.settle_of_idle_or_halted (.inl hi) (Port.currentData_of_queued (by simp [hq]))]
    simp only [hi, hq]
  | @waits Q r rest hq hd h =>
    intro n s hp hi hn hf
    obtain ⟨n, rfl⟩ : ∃ m, n = m + 1 := ⟨n - 1, by omega⟩
    have hm : Q.mayBecomeCurrent r = false := by
      have hda : r.work.isData = true := by simp [Work.isData, Option.isSome_iff_ne_none, hd]
      rcases h with h | h <;> simp [Port.mayBecomeCurrent, hda, h]
    simp only [State.examineFuel, hp, hi, if_true, hq, hm, State.modPort_eq]
    rw [if_neg (by simp), hp, Port.settle_of_idle_or_halted (.inl hi) (Port.currentData_of_queued (by simp [hq]))]
    simp only [hi, hq]
  | @serves Q r rest d hq hd ha hr hs h =>
    intro n s hp hi hn hf
    subst hp
    obtain ⟨n, rfl⟩ : ∃ m, n = m + 1 := ⟨n - 1, by omega⟩
    rw [State.examineFuel_data n hi hq (by simp [Work.isData, hd]) ha hr hs, Port.takeUp_serving hd hs, State.modPort_eq,
      State.port_setPort_same, State.setPort_setPort,
      Port.settle_of_serving (r := r) (rest := rest) rfl (by simp [hd])
        (h.imp_right fun h => by simp [Port.readyForBurst, Port.serving, h])]
    congr 1
    simp [Port.serving, hs]
  | @bursts Q r rest d hq hd ha hr hs hpp hab hm hy =>
    intro n s hp hi hn hf
    subst hp
    obtain ⟨n, rfl⟩ : ∃ m, n = m + 1 := ⟨n - 1, by omega⟩
    rw [State.examineFuel_data n hi hq (by simp [Work.isData, hd]) ha hr hs, Port.takeUp_serving hd hs, State.modPort_eq,
      State.port_setPort_same, State.setPort_setPort,
      Port.settle_of_ready (Port.currentData_of_queue (r := r) (rest := rest) rfl (by simp [hd])) hm
        (by simp [Port.readyForBurst, Port.serving, hr, hpp, hab, hy])]
    congr 1
    simp [Port.startBurst, Port.bursting, Port.serving, hs, Work.burstLength, hm]
  | @skips Q Q' r rest hq hd ha hr hs hm hpp hnr h ih =>
    intro n s hp hi hn hf
    subst hp
    obtain ⟨n, rfl⟩ : ∃ m, n = m + 1 := ⟨n - 1, by omega⟩
    have hf' : s.map.leaveFence p = s.map := hf.resolve_right (by simp [hs])
    rw [State.examineFuel_skipped n hi hq (by simp [Work.isData, Option.isSome_iff_ne_none, hd]) ha hr hs,
      State.skipped_eq hi hq hd hs hm hpp hnr, ih n _ (by simp [State.port_mk]) hi
        (by simp only [hq, List.length_cons] at hn; simp only [Port.recordGone, hq, List.tail_cons]; omega)
        (.inl (by simp))]
    apply State.ext_ports <;> try rfl
    · intro q
      by_cases hqp : q = p
      · subst hqp; simp
      · simp [State.port_mk, hqp]
    · simpa using hf'

/-- An IDLE port serves its head (R22, R61): what `Port.TakesHead` says, and nothing else. -/
theorem State.serve_of_takesHead {s : State} {p : PortId} {Q' : Port} (h : (s.port p).TakesHead Q')
    (hi : (s.port p).state = .idle) (hf : s.map.leaveFence p = s.map ∨ (s.port p).skip = false) :
    s.serve p = s.setPort p Q' :=
  State.examineFuel_of_takesHead h _ s rfl hi (Nat.lt_succ_self _) hf

/-- Nothing begins at a PAUSED or BLOCKED port. -/
theorem State.serve_of_resting {s : State} {p : PortId} (h : (s.port p).state = .paused ∨ (s.port p).state = .blocked) :
    s.serve p = s := by
  have hs : (s.port p).settle = s.port p := by
    unfold Port.settle
    rcases h with h | h <;> simp only [Port.discards, Port.readyForBurst, h] <;> split <;> simp_all <;> split <;> rfl
  rw [State.serve_of_not_idle (by rcases h with h | h <;> simp [h]), State.modPort_eq, hs, State.setPort_port]

/-! ### Normal ends -/

/-- The end of the current record with a normal status whose report is REPORT ALWAYS's affair (R59 to R62). -/
theorem State.recordEnd_retires {s : State} {p : PortId} {r : Record} {rest : List Slot} {st : Status} {Q : Port}
    {rep : Report} {d : Detail} (hq : (s.port p).queue = ⟨r, .current⟩ :: rest) (hnm : r.work ≠ .mark)
    (he : st.isError = false) (hst : st = .aborted ∨ (s.port p).state ≠ .paused)
    (hQ : { (((s.port p).setLatch none).endBurst).endEffects r st with queue := rest, heldReport := none } = Q)
    (hqe : ((((s.port p).setLatch none).endBurst).endEffects r st).queue = (s.port p).queue)
    (hse : ((((s.port p).setLatch none).endBurst).endEffects r st).state = (s.port p).state)
    (hrep : ((((s.port p).setLatch none).endBurst).endEffects r st).recordReport p r st d = rep) :
    { s with map := s.map.leaveFence p }.Retires p Q r rep (.next ((s.recordEnd p st d).serve p)) := by
  have hcur : (s.port p).current = some r := by simp [Port.current, hq]
  have hn : r.needsReport st = r.reportAlways := by simp [Record.needsReport, he, hnm]
  generalize hE : (((s.port p).setLatch none).endBurst).endEffects r st = E at *
  subst hQ
  have hend : s.recordEnd p st d = ({ s.setPort p E with map := s.map.leaveFence p }).retire p st r.reportAlways rep := by
    rw [State.recordEnd_eq hcur, hE, hrep, hn]
    congr 1
    apply State.ext_ports <;> try rfl
    intro q
    by_cases hqp : q = p
    · subst hqp; simp [State.port_mk, hE]
    · simp [State.port_mk, hqp]
  refine ⟨fun h => ?_, fun ha hl => ?_⟩
  · have hret : s.recordEnd p st d = { s.setPort p (E.completeRetirement st) with
        map := s.map.leaveFence p, reports := if r.reportAlways then s.reports.post rep else s.reports } := by
      rw [hend]
      cases hra : r.reportAlways
      · rw [State.retire_unreported]
        apply State.ext_ports <;> try rfl
        intro q
        by_cases hqp : q = p
        · subst hqp; simp [State.port_mk]
        · simp [State.port_mk, hqp]
      · rw [State.retire_posted (by simpa [hra] using h)]
        apply State.ext_ports <;> try rfl
        intro q
        by_cases hqp : q = p
        · subst hqp; simp [State.port_mk]
        · simp [State.port_mk, hqp]
    have hserve : ∀ {Q' : Port}, s.recordEnd p st d = { s.setPort p Q' with
        map := s.map.leaveFence p, reports := if r.reportAlways then s.reports.post rep else s.reports } →
        Q'.state = .paused → (s.recordEnd p st d).serve p = s.recordEnd p st d := fun h1 h2 =>
      State.serve_of_resting (.inl (by rw [h1]; simpa [State.port_mk] using h2))
    refine ⟨fun hp => ?_, fun hp h2 => ?_, fun hp h2 Q' hQ' => ?_⟩
    · have hc : E.completeRetirement st = { { E with queue := rest, heldReport := none } with
          state := .paused, pausePending := false, pauseReached := true } := by
        simp only at hp
        simp [Port.completeRetirement, he, hp, hqe, hq]
      rw [hc] at hret
      rw [hserve hret rfl, hret]
      rfl
    · have hc : E.completeRetirement st = { E with queue := rest, heldReport := none } := by
        simp only at hp h2
        simp [Port.completeRetirement, he, hp, hqe, hq, h2]
      rw [hc] at hret
      rw [hserve hret h2, hret]
      rfl
    · have hc : E.completeRetirement st = { { E with queue := rest, heldReport := none } with state := .idle } := by
        simp only at hp h2
        simp [Port.completeRetirement, he, hp, hqe, hq, h2]
      rw [hc] at hret
      have hport : (s.recordEnd p st d).port p =
          { { E with queue := rest, heldReport := none } with state := .idle } := by rw [hret]; simp [State.port_mk]
      rw [State.serve_of_takesHead (Q' := Q') (by rw [hport]; exact hQ') (by rw [hport]) (.inl (by rw [hret]; simp)), hret]
      refine congrArg Host.Outcome.next ?_
      apply State.ext_ports <;> try rfl
      intro q
      by_cases hqp : q = p
      · subst hqp; simp [State.port_mk]
      · simp [State.port_mk, hqp]
  · have hret : s.recordEnd p st d = { s.setPort p (E.block st rep) with
        map := s.map.leaveFence p, reports := { s.reports with blocked := s.reports.blocked ++ [p] } } := by
      rw [hend, ha, State.retire_blocks (by simpa using hl)]
      apply State.ext_ports <;> try rfl
      intro q
      by_cases hqp : q = p
      · subst hqp; simp [State.port_mk]
      · simp [State.port_mk, hqp]
    have hb : E.block st rep = { { E with queue := rest, heldReport := none } with
        queue := ⟨r, .ended⟩ :: rest, state := .blocked, heldReport := some rep
        pausePending := E.pausePending || E.state == .paused } := by
      have hst' : (E.state == .paused && st == .aborted) = (E.state == .paused) := by
        rcases hst with rfl | h
        · simp
        · have : (E.state == .paused) = false := by rw [hse]; simpa using h
          simp [this]
      simp [Port.block, hqe, hq, hst']
    rw [hb] at hret
    rw [State.serve_of_resting (.inr (by rw [hret]; simp [State.port_mk])), hret]
    rfl

/-- A retirement does not look at the context that its port had before. -/
theorem State.retires_setPort {s : State} {p : PortId} {P Q : Port} {r : Record} {rep : Report}
    {out : Host.Outcome State Fault Refusal} : (s.setPort p P).Retires p Q r rep out ↔ s.Retires p Q r rep out := by
  simp only [State.Retires, State.setPort_setPort, State.setPort_reports]

theorem State.retires_modPort {s : State} {p : PortId} {f : Port → Port} {m : MapUnit} {Q : Port} {r : Record}
    {rep : Report} {out : Host.Outcome State Fault Refusal} :
    ({ s.modPort p f with map := m } : State).Retires p Q r rep out ↔ ({ s with map := m } : State).Retires p Q r rep out :=
  State.retires_setPort (s := { s with map := m })

/-- The end of a data record by an abort (R53, R55). -/
theorem State.recordEnd_aborted {s : State} {p : PortId} {r : Record} {rest : List Slot}
    (hq : (s.port p).queue = ⟨r, .current⟩ :: rest) (hd : r.work.dir = some (s.port p).msgDir) :
    { s with map := s.map.leaveFence p }.Retires p ((s.port p).abortedAt r.work) r ((s.port p).abortReport p r)
      (.next ((s.recordEnd p .aborted .absent).serve p)) := by
  have hda : r.work.isData = true := by simp [Work.isData, hd]
  have hm : r.work ≠ .mark := by rintro h; simp [h, Work.dir] at hd
  have hE : ((((s.port p).setLatch none).endBurst).endEffects r .aborted) =
      { (s.port p).abortedAt r.work with queue := (s.port p).queue, heldReport := (s.port p).heldReport } := by
    generalize s.port p = P at *
    cases hc : r.work.cont <;> cases hmd : P.msgDir <;> rw [hmd] at hd <;> cases hep : P.endPassed <;>
      cases hwp : P.wordsPassed <;>
      simp [Port.endEffects, hda, Port.messageEffects, Status.cutsMessage, Port.repairLines, Port.endSetsSkip, hc,
        Port.closeMessage, Port.setSkip, Port.driveCan, Port.endBurst, Port.setLatch, Port.abortedAt, Port.recordGone,
        hmd, hep, hwp, hd]
  refine State.recordEnd_retires hq hm rfl (.inl rfl) ?_ ?_ ?_ ?_ <;> rw [hE]
  · simp [Port.abortedAt, Port.recordGone, hq]
  · rfl
  · cases hmd : (s.port p).msgDir <;> rw [hmd] at hd <;>
      simp [Port.recordReport, Port.abortReport, Port.abortedAt, Port.recordGone, hda, hd,
        show (Status.aborted == Status.done) = false from rfl, show (Direction.outbound == Direction.inbound) = false from rfl]

/-- The end of a record by DONE or SHORT (R50, R51, R52). -/
theorem State.recordEnd_normal {s : State} {p : PortId} {r : Record} {rest : List Slot} {st : Status} {rep : Report}
    (hq : (s.port p).queue = ⟨r, .current⟩ :: rest) (hd : r.work.dir ≠ none) (hst : st = .done ∨ st = .short)
    (hns : (s.port p).state ≠ .paused) (hrep : (s.port p).recordReport p r st .absent = rep) :
    { s with map := s.map.leaveFence p }.Retires p
      { (s.port p).recordGone with
        msgOpen := (s.port p).msgOpen && r.work.cont && !(s.port p).endSetsSkip r.work st
        skip := r.work.cont && ((s.port p).skip || (s.port p).endSetsSkip r.work st)
        wordsPassed := (s.port p).wordsPassed && r.work.cont, endPassed := (s.port p).endPassed && r.work.cont }
      r rep (.next ((s.recordEnd p st .absent).serve p)) := by
  have hda : r.work.isData = true := by simp [Work.isData, Option.isSome_iff_ne_none, hd]
  have hm : r.work ≠ .mark := by rintro h; simp [h, Work.dir] at hd
  have he : st.isError = false := by rcases hst with rfl | rfl <;> rfl
  subst hrep
  refine State.recordEnd_retires hq hm he (.inr hns) ?_ ?_ ?_ ?_ <;>
    simp only [Port.endEffects, hda, if_true, Port.messageEffects_normal hst]
  · simp only [Port.recordGone, hq, List.tail_cons]
    rfl
  all_goals rfl

/-! ### Bursts that are over -/

/-- The data path given back, in the words of the statements and in the model's. -/
theorem State.givenBack_eq (s : State) (p : PortId) : s.givenBack p = s.releaseBy p := rfl

/-- What follows a burst that is over does not look at the context that its port had before. -/
theorem State.burstOver_setPort {s : State} {p : PortId} {P Q : Port} {r : Record}
    {out : Host.Outcome State Fault Refusal} : (s.setPort p P).BurstOver p Q r out ↔ s.BurstOver p Q r out := by
  have h : ({ s.setPort p P with map := s.map.leaveFence p } : State).Retires p (Q.abortedAt r.work) r
      (Q.abortReport p r) out ↔
      ({ s with map := s.map.leaveFence p } : State).Retires p (Q.abortedAt r.work) r (Q.abortReport p r) out :=
    State.retires_modPort (f := fun _ => P)
  simp only [State.BurstOver, State.setPort_setPort, State.setPort_map, h]

/-- A burst that is over without ending its record (R40, R85, R96). -/
theorem State.burstOver_over {s : State} {p : PortId} {r : Record} {rest : List Slot} {Q : Port}
    (hq : (s.port p).queue = ⟨r, .current⟩ :: rest) (hd : r.work.dir = some (s.port p).msgDir)
    (hrun : (s.port p).state = .running) (hs : (s.port p).skip = false) (hr : (s.port p).resync = false)
    (hQ : { s.port p with phase := .waiting, inHand := none, lookupRequest := false, cut := none } = Q) :
    s.BurstOver p Q r (.next ((s.burstOver p).serve p)) := by
  subst hQ
  refine ⟨fun ha => ?_, fun ha hp => ?_, fun ha hp h => ?_, fun ha hp hm hy => ?_⟩
  · simp only at ha
    rw [State.burstOver, if_pos ha]
    have h := State.recordEnd_aborted (r := r) (rest := rest)
      (s := s.modPort p fun P => { P with phase := .waiting, inHand := none, lookupRequest := false, cut := none })
      (p := p) (by simpa using hq) (by simpa using hd)
    rw [State.port_modPort_same] at h
    exact State.retires_modPort.mp h
  all_goals simp only at ha hp
  all_goals simp only [State.burstOver, ha, hp, Bool.false_eq_true, if_false, if_true]
  · rw [State.serve_of_resting (.inl (by simp [Port.pauseHolding])), State.modPort_modPort, State.modPort_eq]
    simp [Port.pauseHolding, ha]
  · rw [State.serve_of_not_idle (by simp [hrun]), State.modPort_modPort, State.modPort_eq,
      Port.settle_of_serving (r := r) (rest := rest) (by simpa using hq) (by simp [hd])
        (h.imp_right fun h => by simp only at h; simp [Port.readyForBurst, h])]
    simp [ha, hp]
  · rw [State.serve_of_not_idle (by simp [hrun]), State.modPort_modPort, State.modPort_eq,
      Port.settle_of_ready (Port.currentData_of_queue (r := r) (rest := rest) (by simpa using hq) (by simp [hd])) hm
        (by simp only at hy; simp [Port.readyForBurst, hrun, hs, hr, ha, hp, hy])]
    simp [Port.startBurst, Port.bursting, Work.burstLength, hm, ha, hp]

end Sys2Proof.Machine
end

