-- ==== Sys2Proof/Tests/Slice0.lean ====
section
/-! SUPPORT. The model's own tests: the smoke test of well-formedness, one or two steps of each command against the
worked examples and rules of the spec, and for every statement with hypotheses concrete values that meet them. -/

namespace Sys2Proof.Tests

open Sys2Proof.Machine

/-! ### Small states -/

/-- After power-on with the map initialisation ended. -/
def quiet : State := { State.reset with win := { State.reset.win with initBusy := false } }

/-- `quiet` with port 0 as given. -/
def port0 (P : Port) : State := quiet.setPort 0 P

/-- The state that a command leaves (every command answers a next state). -/
def after (c : Instr) (s : State) : State :=
  match exec c s with
  | .next t => t
  | .fault f => nomatch f
  | .refused _ => s

/-- An IDLE port with a peripheral attached and RDY absent. -/
def idle : Port := { Port.powerOn with state := .idle, attached := true, attLine := true }

/-- A mapped MOVE of `n` words at 1000h that asks for no report, TAG 7. -/
def moveOf (d : Direction) (n : Nat) (cont : Bool) : Record := ⟨.move d n 0x1000 true cont false, false, false, 7⟩

/-- A FILL of `n` words of 99, TAG 7. -/
def fillOf (n : Nat) : Record := ⟨.fill n 99 false, false, false, 7⟩

/-- A DRAIN of `n` words, TAG 7. -/
def drainOf (n : Nat) : Record := ⟨.drain n false false, false, false, 7⟩

/-- The PATCH record of the block at 1000h, TAG 7. -/
def patchRecord : Record := ⟨.patch 0x1000, false, false, 7⟩

/-- A port that serves a data record, in WAITING. -/
def serve (d : Direction) (r : Record) : Port := idle.serving r [] d

/-- A port in the transfer phase of the first burst of a record of four words, RDY present. -/
def transfer (d : Direction) (r : Record) : Port :=
  { serve d r with phase := .transferring, burstLength := 4, rdyLine := true }

/-- Port 0 in a transfer phase, holding the data path. -/
def holding (P : Port) : State := { port0 P with arbiter := ⟨.port 0, 0, 7, 0⟩ }

/-- An announced entry that stands for any. -/
def entry : ReportEntry := ⟨.flushed 1 1, true⟩

/-- A map entry that grants both accesses. -/
def open_ (f : BitVec 20) : MapEntry := ⟨⟨f, true, true, true⟩, false, .none⟩

/-! ### Well-formedness -/

/-- Each check of well-formedness refuses an ill-formed command (Tables 11-1, 11-2). -/
theorem test_wellFormed_refuses :
    Instr.wellFormed (.badCommand 5) = false ∧ Instr.wellFormed (.badCommand 13) = true ∧
    Instr.wellFormed (.registerWrite 0x04 false 0) = false ∧ Instr.wellFormed (.registerWrite 0xF8 false 0) = false ∧
    Instr.wellFormed (.registerWrite 0x04 true 0) = true ∧ Instr.wellFormed (.registerWrite 0x14 false 0) = true := by
  decide

/-- COMMAND words by Tables 11-2 and 11-6: POST at port 2, WITHDRAW 0041h at port 3, opcode 13. -/
theorem test_command_words :
    commandOfWord 0x00000021 = .post 2 ∧ commandOfWord 0x00410032 = .withdraw 3 0x41 ∧
    commandOfWord 0x0000000D = .badCommand 13 := by decide

/-! ### Posting (section 1.5) -/

/-- Port 2 of section 1.5: A, B and C of one INBOUND message, QUEUE QUOTA 4. -/
def posting : State :=
  let c := moveOf .inbound 8 true
  (quiet.setPort 2 { serve .inbound c with
      queue := [⟨c, .current⟩, ⟨c, .queued⟩, ⟨c, .queued⟩]
      config := { PortConfig.defaults with queueQuota := 4 } })

/-- Section 1.5, step 1: the MARK is refused OPEN MESSAGE, value 3. -/
theorem test_post_open_message :
    (after (.post 2) { posting with win := { posting.win with stage0 := 4 } }).win.result = ⟨1, .openMessage, 3⟩ := by
  decide

/-- Section 1.5, steps 2 and 3: the DRAIN is accepted with value 4, its second POST refused QUOTA. -/
theorem test_post_drain :
    let s : State := { posting with win := { posting.win with stage0 := 0x43, stage1 := 8 } }
    let t := after (.post 2) s
    t.win.result = ⟨1, .accepted, 4⟩ ∧
    (t.port 2).queue.getLast? = some ⟨⟨.drain 8 false true, false, false, 0⟩, .queued⟩ ∧
    (after (.post 2) t).win.result = ⟨1, .quota, 4⟩ := by
  decide

/-! ### A pause and a withdraw held over one burst (section 2.8) -/

/-- Port 3 of section 2.8 in its third burst, five words written. -/
def pausing : State :=
  let p : Record := ⟨.move .inbound 100 0x1000 true true false, true, false, 0x41⟩
  let q : Record := ⟨.move .inbound 50 0x1000 true false false, true, false, 0x42⟩
  { quiet.setPort 3 { serve .inbound p with
      queue := [⟨p, .current⟩, ⟨q, .queued⟩], phase := .transferring, rdyLine := true, wordsPassed := true
      burstStart := 32, position := 37, moved := 37, burstLength := 16, exchanged := 5 } with
    arbiter := ⟨.port 3, 7, 3, 0⟩ }

/-- Steps 2 and 3: PAUSE is held (value 7), WITHDRAW marks the burst (value 10). -/
theorem test_pause_held : (after (.pause 3) pausing).win.result = ⟨5, .accepted, 7⟩ := by decide

theorem test_withdraw_held :
    let t := after (.withdraw 3 0x41) pausing
    t.win.result = ⟨2, .accepted, 10⟩ ∧ (t.port 3).abortPending = true := by decide

/-- Steps 4 and 5: the yield applies both pending actions; P retires ABORTED with 37 words moved. -/
theorem test_yield_applies_pending :
    let t := after (.rdyFall 3) (after (.withdraw 3 0x41) (after (.pause 3) pausing))
    (t.port 3).state = .paused ∧ (t.port 3).skip = true ∧ (t.port 3).msgOpen = false ∧ (t.port 3).resync = true ∧
    (t.port 3).pauseReached = true ∧ (t.port 3).queue.length = 1 ∧
    t.reports.entries.map ReportEntry.report = [.record 3 .aborted 0x41 37 false 0 false .absent] ∧
    t.arbiter.holder = .none := by decide

/-- Port 3 after step 5 of section 2.8. -/
def paused3 : State :=
  let q : Record := ⟨.move .inbound 50 0x1000 true false false, true, false, 0x42⟩
  quiet.setPort 3 { idle with
    state := .paused, queue := [⟨q, .queued⟩], skip := true, resync := true, wordsPassed := true, rdyLine := true }

/-- Step 6: RESUME-RECORD brings the port to IDLE. -/
theorem test_resume_record : (after (.resumeRecord 3) paused3).win.result = ⟨6, .accepted, 1⟩ := by decide

/-- Steps 7 and 8: the discarded END clears RESYNC and Q retires SKIPPED. -/
theorem test_discard_ends_resync :
    let t := after (.discardWord 3 5 true) (after (.resumeRecord 3) paused3)
    (t.port 3).resync = false ∧ (t.port 3).discarded = 1 ∧ (t.port 3).state = .idle ∧ (t.port 3).queue = [] ∧
    (t.port 3).skip = false ∧
    t.reports.entries.map ReportEntry.report = [.record 3 .skipped 0x42 0 false 0 false .absent] := by decide

/-! ### An outbound message broken by the repeat limit (section 3.8) -/

/-- Port 6 of section 3.8 in CONFIRMING after its second burst, with a repeat count. -/
def repeating (repeats : Nat) : State :=
  let u : Record := ⟨.move .outbound 24 0x1000 true true false, false, false, 0x100⟩
  let v : Record := ⟨.move .outbound 16 0x1000 true false false, true, false, 0x101⟩
  let w : Record := ⟨.fill 8 0 false, true, false, 0x102⟩
  quiet.setPort 6 { serve .outbound u with
    queue := [⟨u, .current⟩, ⟨v, .queued⟩, ⟨w, .queued⟩], phase := .confirming, wordsPassed := true
    burstStart := 16, position := 24, moved := 16, burstLength := 8, exchanged := 8, repeats := repeats
    config := { PortConfig.defaults with repeatLimit := 1 } }

/-- Step 4: the RPT rewinds to word 16. -/
theorem test_rpt_rewinds :
    let P := (after (.rpt 6) (repeating 0)).port 6
    P.position = 16 ∧ P.moved = 16 ∧ P.repeats = 1 ∧ P.phase = .waiting := by decide

/-- Step 6: at the limit U ends REPEAT LIMIT, CAN is driven and the port halts. -/
theorem test_rpt_at_limit :
    let t := after (.rpt 6) (repeating 1)
    (t.port 6).state = .halted ∧ (t.port 6).haltEvent = true ∧ (t.port 6).can = some 0 ∧ (t.port 6).msgOpen = true ∧
    (t.port 6).queue.length = 2 ∧
    t.reports.entries.map ReportEntry.report = [.record 6 .repeatLimit 0x100 16 false 1 false .absent] := by decide

/-- Steps 7 to 9: RESUME-MESSAGE sets SKIP, V retires SKIPPED and W becomes current. -/
theorem test_resume_message :
    let t := after (.resumeMessage 6) (after (.rpt 6) (repeating 1))
    t.win.result = ⟨7, .accepted, 1⟩ ∧ (t.port 6).state = .running ∧ (t.port 6).phase = .waiting ∧
    (t.port 6).msgOpen = true ∧ (t.port 6).skip = false ∧ (t.port 6).wordsPassed = false ∧
    (t.port 6).queue.map Slot.stage = [.current] ∧
    t.reports.entries.map ReportEntry.report = [.record 6 .repeatLimit 0x100 16 false 1 false .absent,
      .record 6 .skipped 0x101 0 false 0 false .absent] := by decide

/-- R78, R85: a CNF lets a FILL with RDY present begin its next burst; the RPT that came with the CNF is ignored, and an RPT
after the first word of that burst cuts it (R77). -/
theorem test_rpt_after_cnf :
    let s := port0 { serve .outbound (fillOf 8) with
      phase := .confirming, position := 4, burstLength := 4, exchanged := 4, wordsPassed := true, rdyLine := true }
    let t := after (.rpt 0) (after (.cnf 0) s)
    let u := after (.rpt 0) (after (.outboundWordSent 0) (after (.cnf 0) s))
    (t.port 0).phase = .transferring ∧ (t.port 0).position = 4 ∧ (t.port 0).moved = 4 ∧ (t.port 0).repeats = 0 ∧
    (u.port 0).position = 4 ∧ (u.port 0).moved = 4 ∧ (u.port 0).repeats = 1 := by decide

/-- R75: CNF counts the burst; the last one ends the record DONE. -/
theorem test_cnf_counts :
    let s := port0 { serve .outbound (fillOf 4) with
      phase := .confirming, position := 4, burstLength := 4, exchanged := 4, wordsPassed := true, endPassed := true }
    let t := after (.cnf 0) s
    (t.port 0).moved = 4 ∧ (t.port 0).state = .idle ∧ (t.port 0).queue = [] ∧ (t.port 0).msgOpen = false ∧
    t.reports.entries = [] := by decide

/-- R69, R70, R94: the last word of a FILL carries END, and the burst goes to CONFIRMING. -/
theorem test_last_word_carries_end :
    let t := after (.outboundWordSent 0) (port0 { transfer .outbound (fillOf 4) with position := 3, exchanged := 3 })
    (t.port 0).lines = some ⟨.outbound, 99, true⟩ ∧ (t.port 0).phase = .confirming ∧ (t.port 0).endPassed = true ∧
    (t.port 0).moved = 0 := by decide

/-! ### A stalled inbound record (section 4.9) -/

/-- Port 1 of section 4.9 after step 3, with a stall count. -/
def stalling (count : Nat) : State :=
  let g : Record := ⟨.move .inbound 40 0x1000 true true true, false, false, 0x200⟩
  quiet.setPort 1 { serve .inbound g with
    wordsPassed := true, burstStart := 16, position := 21, moved := 21, exchanged := 5, burstLength := 16
    stallTimer := some count, config := { PortConfig.defaults with stallLimit := 4 } }

/-- Step 3: a time unit step counts the running stall timer. -/
theorem test_time_unit_counts : ((after .timeUnitStep (stalling 1)).port 1).stallTimer = some 2 := by decide

/-- Step 4: the expiry ends G STALLED with 21 words moved; RESYNC is set and MSG-OPEN kept. -/
theorem test_stall_expiry :
    let t := after (.stallExpiry 1) (stalling 4)
    (t.port 1).state = .halted ∧ (t.port 1).resync = true ∧ (t.port 1).msgOpen = true ∧ (t.port 1).skip = false ∧
    t.reports.entries.map ReportEntry.report = [.record 1 .stalled 0x200 21 false 0 false .absent] ∧
    after (.stallExpiry 1) (stalling 3) = stalling 3 := by decide

/-! ### A mapped inbound MOVE across a page boundary (section 5.8) -/

/-- Port 4 of section 5.8, RDY present. -/
def crossing : State :=
  let r : Record := ⟨.move .inbound 40 0x2FE0 true false true, true, false, 0x300⟩
  let s := quiet.setPort 4 { serve .inbound r with rdyLine := true, window := ⟨100, 8⟩ }
  { s with map := { s.map with entries := [(102, open_ 0x00451), (103, open_ 0x00800)] } }

/-- Steps 1 and 2: the first burst is 8 words long, page 2 is looked up, and its first word goes to 00451FE0h. -/
theorem test_grant_sets_burst :
    let t := after .grant crossing
    t.arbiter = ⟨.port 4, 7, 4, 0⟩ ∧ (t.port 4).burstLength = 8 ∧ (t.port 4).phase = .transferring ∧
    (t.port 4).lookupRequest = true := by decide

theorem test_lookup_translates :
    let t := after (.inboundWordTaken 4 0xAB false) (after (.lookup 4) (after .grant crossing))
    (t.port 4).latch = some ⟨2, 0x00451⟩ ∧ t.access = some (.write 0x00451FE0 0xAB) := by decide

/-- Step 9: the sixth word, with END, ends R DONE with MESSAGE END and 40 words moved. -/
theorem test_write_end_completes :
    let s := crossing.setPort 4 { crossing.port 4 with
      phase := .transferring, burstStart := 34, position := 39, moved := 39, exchanged := 5, burstLength := 6
      latch := some ⟨3, 0x00800⟩, endTaken := true, endPassed := true, wordsPassed := true }
    let t := after (.hostAccessEnd (.data 0))
      { s with arbiter := ⟨.port 4, 7, 4, 0⟩, access := some (.write 0x0080007C 1) }
    (t.port 4).state = .idle ∧ (t.port 4).latch = none ∧ (t.port 4).msgOpen = false ∧ t.arbiter.holder = .none ∧
    t.reports.entries.map ReportEntry.report = [.record 4 .done 0x300 40 true 0 false .absent] := by decide

/-- Section 6.5, grant 6: at an urgent run of 4 the NORMAL class is chosen, from the port after its pointer. -/
theorem test_grant_starvation_guard :
    let req (c : PortClass) : Port :=
      { serve .inbound (moveOf .inbound 8 false) with rdyLine := true, config := { PortConfig.defaults with cls := c } }
    let s := (((quiet.setPort 0 (req .urgent)).setPort 5 (req .urgent)).setPort 2 (req .normal)).setPort 3 (req .normal)
    (after .grant { s with arbiter := ⟨.none, 5, 7, 4⟩ }).arbiter = ⟨.port 2, 5, 2, 0⟩ := by decide

/-! ### The map (section 7.7) -/

/-- The map of section 7.7 with a disturbance of entry 41. -/
def mapped (d : Disturbance) : State :=
  { quiet with map := { quiet.map with
      entries := [(41, { open_ 0x01234 with disturbance := d })], mapIndex := 41, corrections := 7 } }

/-- Steps 1 and 4: disturbance events. -/
theorem test_disturbance :
    (after (.disturbance 41 .oneBit) (mapped .none)).map.entry 41 = { open_ 0x01234 with disturbance := .oneBit } ∧
    (after (.disturbance 41 .oneBit) (mapped .oneBit)).map.entry 41 = { open_ 0x01234 with disturbance := .twoBits } := by
  decide

/-- Step 6: the host read of two corrupted bits poisons the entry and returns it marked POISONED. -/
theorem test_mapdata_read_poisons :
    let t := after (.mapdataRead false) (mapped .twoBits)
    t.win.hostRead = 0x0123400F ∧ t.map.poisonedFlag = true ∧ t.map.corrections = 7 ∧ (t.map.entry 41).poisoned = true := by
  decide

/-- Step 9: the host write makes the entry GOOD again. -/
theorem test_mapdata_write :
    (after (.mapdataWrite 0x01234007) (after (.mapdataRead false) (mapped .twoBits))).map.entry 41 = open_ 0x01234 := by
  decide

/-- Step 10: page 5 is not below SPAN 4, so the lookup faults OUTSIDE WINDOW with page 5. -/
theorem test_lookup_outside_window :
    let u : Record := ⟨.move .outbound 4 0x5000 true false false, true, false, 9⟩
    let s := quiet.setPort 2 { transfer .outbound u with lookupRequest := true, window := ⟨40, 4⟩ }
    let t := after (.lookup 2) { s with arbiter := ⟨.port 2, 7, 2, 0⟩ }
    (t.port 2).state = .halted ∧ (t.port 2).can = none ∧
    t.reports.entries.map ReportEntry.report =
      [.record 2 .mapFault 9 0 false 0 false (.mapFault .outsideWindow 5)] := by decide

/-! ### Patches and the fence (section 8.6) -/

/-- Step 1: the host claim is taken at once. -/
theorem test_patch_taken :
    let t := after (.patch 0) { quiet with map := { quiet.map with patchAddr := 0x80000 } }
    t.win.result = ⟨10, .accepted, 0⟩ ∧ t.map.engine = some (.taken .host 0x80000 0 ⟨0, 0⟩) := by decide

/-- The host patch of section 8.6 before its last word, port 6's claim waiting. -/
def patching : State :=
  let j : Record := ⟨.patch 0x81000, true, false, 0x600⟩
  let s := quiet.setPort 6 { idle with
    state := .running, queue := [⟨j, .current⟩], window := ⟨300, 4⟩ }
  { s with
    arbiter := ⟨.patchFetch, 7, 7, 0⟩, access := some (.read 0x80018)
    map := { s.map with
      waiting := s.map.waiting.insert 6
      engine := some { Flight.taken .host 0x80000 0 ⟨0, 0⟩ with
        fetching := true, wordsRead := 6, count := 3, index := some 10
        staging := [(10, ⟨0x100, true, true, true⟩), (11, ⟨0x101, true, true, false⟩)] } } }

/-- Step 4: the commit writes entries 10 (the later pair) and 11, and port 6's claim is taken. -/
theorem test_patch_commits :
    let t := after (.patchReadEnd (.data 0x00105007)) patching
    t.map.entry 10 = open_ 0x105 ∧ t.map.entry 11 = ⟨⟨0x101, true, true, false⟩, false, .none⟩ ∧
    t.map.lastOutcome = .applied 3 .host ∧ t.map.patchEnd = true ∧ t.arbiter.holder = .none ∧
    t.map.engine = some (.taken (.port 6) 0x81000 6 ⟨300, 4⟩) := by decide

/-- Step 7: index 16 is not below SPAN 16; N retires PATCH REJECTED and port 3 halts. -/
theorem test_patch_rejected :
    let n : Record := ⟨.patch 0x82000, false, false, 0x300⟩
    let s := quiet.setPort 3 { idle with state := .running, queue := [⟨n, .current⟩], window := ⟨200, 16⟩ }
    let t := after (.patchReadEnd (.data 16)) { s with
      arbiter := ⟨.patchFetch, 7, 7, 0⟩, access := some (.read 0x8200C)
      map := { s.map with engine := some { Flight.taken (.port 3) 0x82000 3 ⟨200, 16⟩ with
        fetching := true, wordsRead := 3, count := 2, relative := true, staging := [(205, ⟨0x600, true, true, false⟩)] } } }
    t.map.lastOutcome = .rejected .badIndex 1 (.port 3) ∧ t.map.entry 205 = s.map.entry 205 ∧
    (t.port 3).state = .halted ∧ t.map.engine = none ∧
    t.reports.entries.map ReportEntry.report = [.record 3 .patchRejected 0x300 0 false 0 false (.patch .badIndex)] := by
  decide

/-- The fence of section 8.6: two valid latches, value 2. -/
theorem test_fence :
    let P := { transfer .inbound (moveOf .inbound 4 false) with latch := some ⟨1, 0x100⟩ }
    let t := after .fence ((quiet.setPort 1 P).setPort 4 P)
    t.win.result = ⟨11, .accepted, 2⟩ ∧ t.map.fencePending = true ∧ t.map.fenceEnd = false ∧
    ((t.map.leaveFence 4).leaveFence 1).fenceEnd = true := by decide

/-! ### The report queue (section 9.6) -/

/-- The queue of section 9.6: two announced entries, THRESHOLD 4, HOLDOFF 3. -/
def reporting : ReportQueue := ⟨[entry, entry], [], none, true, 4, 3⟩

/-- Steps 1 and 2: REPORT DUE cleared, and a normal report starts the timer. -/
theorem test_report_due_cleared :
    let t := after (.reportDueClear 0x01000000) { quiet with reports := reporting }
    t.reports.reportDue = false ∧
    (t.reports.post (.record 0 .done 0 0 false 0 false .absent)).holdoffTimer = some 0 := by decide

/-- Step 7: the expiry raises REPORT DUE and announces every entry. -/
theorem test_holdoff_expiry :
    let t := after .holdoffExpiry { quiet with
      reports := { reporting with
        entries := reporting.entries ++ [{ entry with announced := false }], holdoffTimer := some 3, reportDue := false } }
    t.reports.reportDue = true ∧ t.reports.unannounced = 0 ∧ t.reports.holdoffTimer = none := by decide

/-- Step 8: POP shows the count left. -/
theorem test_pop_counts :
    let s := { quiet with reports := { reporting with entries := List.replicate 5 entry } }
    (after .pop s).win.result = ⟨12, .accepted, 4⟩ ∧ (after .pop quiet).win.result = ⟨12, .reportEmpty, 0⟩ := by decide

/-- R146: POP of a full queue admits the port at the front of the blocked list. -/
theorem test_pop_admits :
    let s := port0 { idle with
      state := .blocked, queue := [⟨moveOf .inbound 4 false, .ended⟩]
      heldReport := some (.record 0 .stalled 7 2 false 0 false .absent) }
    let t := after .pop { s with reports := { reporting with entries := List.replicate 32 entry, blocked := [0] } }
    t.win.result = ⟨12, .accepted, 32⟩ ∧ (t.port 0).state = .halted ∧ t.reports.blocked = [] ∧ t.reports.entries.length = 32 := by
  decide

/-- Step 4: FLUSH of five records posts the PORT entry with COUNT 5. -/
theorem test_flush :
    let s := port0 { Port.powerOn with queue := List.replicate 5 ⟨fillOf 4, .queued⟩ }
    let t := after (.flush 0) s
    t.win.result = ⟨8, .accepted, 5⟩ ∧ (t.port 0).queue = [] ∧
    t.reports.entries.map ReportEntry.report = [.flushed 0 5] := by decide

/-! ### The attention unit (section 10.7) -/

/-- Section 10.7 after step 4: sources 1 and 8 pending, CSL 2 over BASE. -/
def serving : State :=
  let s := quiet.setPort 1 { Port.powerOn with haltEvent := true, config := { PortConfig.defaults with attnHalt := true } }
  { s with
    win := { s.win with attnEnable := true }
    reports := { s.reports with reportDue := true }
    attn := ⟨0x1FFFB, 0, 2, [4], false, false⟩ }

/-- Step 4: ACKPEEK returns source 8 at level 1 and changes nothing. -/
theorem test_ackpeek :
    serving.int = true ∧ (after (.ackpeek false) serving).win.hostRead = 0x108 ∧
    (after (.ackpeek false) serving).attn = serving.attn := by decide

/-- Step 5: ACKNEST enters level 1 and INT falls. -/
theorem test_acknest :
    let t := after (.acknest false) serving
    t.win.hostRead = 0x108 ∧ t.attn.csl = 1 ∧ t.attn.stack = [2, 4] ∧ t.int = false := by decide

/-- Steps 8 to 11: each EOS pops CSL; one too many sets UNDERFLOW. -/
theorem test_eos :
    let t := after (.eos 0) (after (.acknest false) serving)
    t.attn.csl = 2 ∧ t.attn.stack = [4] ∧
    (after (.eos 0) (after (.eos 0) t)).attn = { serving.attn with csl := 4, stack := [], underflow := true } := by decide

/-- R160: a 1 clears UNDERFLOW. -/
theorem test_astat_clear :
    (after (.astatClear 0x02000000) (after (.eos 0) quiet)).attn.underflow = false ∧
    (after (.astatClear 0x01000000) (after (.eos 0) quiet)).attn.underflow = true := by decide

/-! ### Port commands by their rules -/

/-- R27: ENABLE of a DISABLED port, and of one that is not. -/
theorem test_enable :
    (after (.enable 0) quiet).win.result = ⟨3, .accepted, 1⟩ ∧ ((after (.enable 0) quiet).port 0).state = .idle ∧
    (after (.enable 0) (port0 idle)).win.result = ⟨3, .wrongState, 1⟩ := by decide

/-- R28: DISABLE of an IDLE port, and of a RUNNING one. -/
theorem test_disable :
    (after (.disable 0) (port0 idle)).win.result = ⟨4, .accepted, 0⟩ ∧
    (after (.disable 0) (port0 (serve .outbound (fillOf 4)))).win.result = ⟨4, .busy, 2⟩ := by decide

/-- R37, R98: a port reset while it holds the data path is RESETTING (code 6), then released into DISABLED. -/
theorem test_port_reset_and_release :
    let t := after (.portReset 0) (holding (transfer .inbound (moveOf .inbound 4 false)))
    t.win.result = ⟨9, .accepted, 6⟩ ∧ (t.port 0).state = .resetting ∧ (t.port 0).queue = [] ∧
    ((after (.resettingRelease 0) t).port 0).state = .disabled ∧
    (after (.resettingRelease 0) t).arbiter.holder = .none := by decide

/-- R166: an undefined opcode is refused BAD COMMAND with its opcode. -/
theorem test_bad_command : (after (.badCommand 13) quiet).win.result = ⟨13, .badCommand, 0⟩ := by decide

/-- R167: SOFT RESET keeps the map's entries and waits for the access under way. -/
theorem test_soft_reset :
    let s := { holding (transfer .inbound (moveOf .inbound 4 false)) with access := some (.write 0x1000 1) }
    let t := after .softReset { s with map := { s.map with entries := [(3, open_ 5)], mapIndex := 9 } }
    t.win.result = ⟨15, .accepted, 1⟩ ∧ t.win.resetBusy = true ∧ (t.port 0).state = .resetting ∧
    t.map.entry 3 = open_ 5 ∧ t.map.mapIndex = 0 ∧
    (after (.hostAccessEnd .error) t).win.resetBusy = false := by decide

/-! ### Registers by their rules -/

/-- R44: CONFIG is taken in DISABLED alone, its quotas in range. -/
theorem test_config_write :
    let f : ConfigFields := ⟨.urgent, 64, 7, 4095, 1, false, true, true, true, true⟩
    ((after (.configWrite 3 f) quiet).port 3).config = ⟨.urgent, 64, 7, 4095, 1, false, true, true, true, true⟩ ∧
    (after (.configWrite 3 { f with burstQuota := 65 }) quiet).win.writeIgnored = true ∧
    (after (.configWrite 0 f) (port0 idle)).win.writeIgnored = true := by decide

/-- R44, R114: WINDOW at the end of the table, and one entry past it. -/
theorem test_window_write :
    ((after (.windowWrite 1 0x000103FF) quiet).port 1).window = ⟨1023, 1⟩ ∧
    (after (.windowWrite 1 0x000203FF) quiet).win.writeIgnored = true := by decide

/-- R151: THRESHOLD 1 to 32; a lower THRESHOLD that is reached raises REPORT DUE. -/
theorem test_rqctrl_write :
    (after (.rqctrlWrite 33) quiet).win.writeIgnored = true ∧
    (after (.rqctrlWrite 0x0520) quiet).reports.threshold = 32 ∧ (after (.rqctrlWrite 0x0520) quiet).reports.holdoff = 5 ∧
    (after (.rqctrlWrite 0x0501) { quiet with
      reports := { reporting with entries := [{ entry with announced := false }], reportDue := false } }).reports.reportDue =
      true := by decide

/-- R164: GCTRL, with a TBDIV of 0 discarded. -/
theorem test_gctrl_write :
    (after (.gctrlWrite 0x6401) quiet).win.attnEnable = true ∧ (after (.gctrlWrite 0x6401) quiet).win.tbdiv = 100 ∧
    (after (.gctrlWrite 1) quiet).win.attnEnable = false ∧ (after (.gctrlWrite 1) quiet).win.writeIgnored = true := by
  decide

/-- R42, R163: a 1 clears HALT EVENT alone. -/
theorem test_port_status_clear :
    let P := (after (.portStatusClear 0 0x00010000)
      (port0 { idle with haltEvent := true, attachChange := true, pauseReached := true })).port 0
    P.haltEvent = false ∧ P.attachChange = true ∧ P.pauseReached = true := by decide

/-- R125, R163: a 1 clears PATCH END alone. -/
theorem test_mapstat_clear :
    let t := after (.mapstatClear 0x02000000) { quiet with map := { quiet.map with patchEnd := true, fenceEnd := true } }
    t.map.patchEnd = false ∧ t.map.fenceEnd = true := by decide

/-- R162, R165: a narrow write sets WRITE IGNORED; a 1 in GSTAT clears it. -/
theorem test_write_ignored :
    let t := after (.registerWrite 0x14 true 7) quiet
    t.win.stage0 = 0 ∧ t.win.writeIgnored = true ∧ (after (.writeIgnoredClear 4) t).win.writeIgnored = false := by decide

/-- R4, R154: STAGE0 and AMASK are taken, IDENT is read only. -/
theorem test_register_write :
    (after (.registerWrite 0x14 false 7) quiet).win.stage0 = 7 ∧ (after (.registerWrite 0x54 false 0x12) quiet).attn.amask = 2 ∧
    (after (.registerWrite 0x00 false 7) quiet).win.writeIgnored = true := by decide

/-! ### Resets, initialisation and lines by their rules -/

/-- R168: while RESET is held a command is not taken; its release leaves the power-on state with ATTACHED at ATT's level. -/
theorem test_reset_line :
    let t := after .resetAsserted (port0 idle)
    (after (.disable 0) t).port 0 = idle ∧ ((after .powerOnReset t).port 0).state = .disabled ∧
    ((after .powerOnReset t).port 0).attached = true ∧ (after .powerOnReset t).win.initBusy = true := by decide

/-- R112: the initialisation writes its next entry, and at its end clears INIT BUSY. -/
theorem test_initialisation :
    let s := { State.reset with map := { State.reset.map with entries := [(0, open_ 1), (9, open_ 2)] } }
    let t := after .initEntryWritten s
    t.map.entries = [(9, open_ 2)] ∧ t.map.initNext = 1 ∧ (after .initEnd t).win.initBusy = false ∧
    (after .initEnd t).map.entries = [] ∧ (after .fence t).win.result = ⟨11, .busy, 0⟩ := by decide

/-- R71, R22: ATTACH lets the waiting record of an IDLE port become current. -/
theorem test_attach :
    let P := (after (.attach 0) (port0 { Port.powerOn with state := .idle, queue := [⟨fillOf 4, .queued⟩] })).port 0
    P.state = .running ∧ P.attachChange = true ∧ P.dirLine = .outbound ∧ P.stallTimer = some 0 := by decide

/-- R72, R73: DETACH ends a waiting record DETACHED at once, but cuts a burst whose host access is under way. -/
theorem test_detach :
    let t := after (.detach 0) (port0 (serve .outbound (fillOf 4)))
    (t.port 0).state = .halted ∧
    t.reports.entries.map ReportEntry.report = [.record 0 .detached 7 0 false 0 false .absent] ∧
    ((after (.detach 0) { holding (transfer .inbound (moveOf .inbound 4 false)) with
      access := some (.write 0x1000 1) }).port 0).cut = some .detached := by decide

/-- R74: FLT ends a current data record PERIPH FAULT, and does nothing at an IDLE port. -/
theorem test_flt :
    ((after (.flt 0) (port0 (serve .inbound (drainOf 4)))).reports.entries.map ReportEntry.report) =
      [.record 0 .periphFault 7 0 false 0 false .absent] ∧
    after (.flt 0) (port0 idle) = port0 idle := by decide

/-- R85, R88: RDY present starts the burst of a waiting DRAIN, no longer than the record. -/
theorem test_rdy_rise :
    let P := (after (.rdyRise 0) (port0 (serve .inbound (drainOf 4)))).port 0
    P.phase = .transferring ∧ P.burstLength = 4 ∧ P.rdyLine = true := by decide

/-- R94: the last word of a DRAIN of four without END ends it OVERRUN (Table 3-2). -/
theorem test_drain_overrun :
    let t := after (.inboundWordTaken 0 5 false)
      (port0 { transfer .inbound (drainOf 4) with moved := 3, position := 3, exchanged := 3 })
    t.reports.entries.map ReportEntry.report = [.record 0 .overrun 7 4 false 0 false .absent] ∧
    (t.port 0).resync = true := by decide

/-- R79: the release of CAN. -/
theorem test_can_release :
    ((after (.canRelease 0) (port0 { idle with can := some 2 })).port 0).can = none ∧
    ((after (.canRelease 0) (port0 { idle with can := some 1 })).port 0).can = some 1 := by decide

/-- R79, R164: the cycle that ends a 1 µs step brings the release of a CAN that was held for one step. -/
theorem test_clock_cycle :
    let s := { port0 { idle with can := some 1 } with time := ⟨32, 33, 63⟩ }
    (match step s with
      | .next t => decide (t.pending = [.canRelease 0, .timeUnitStep] ∧ t.time = ⟨0, 33, 0⟩)
      | .fault _ => false
      | .refused _ => false) = true := by decide

/-! ### Values that meet the hypotheses of the statements

One theorem for each statement with hypotheses: for each of its clauses a state and operands that meet all hypotheses of
the clause together, at boundary values of its ranges. -/

/-- `quiet` with a staging image. -/
def staged (w0 w1 w2 w3 : Word) : State :=
  { quiet with win := { quiet.win with stage0 := w0, stage1 := w1, stage2 := w2, stage3 := w3 } }

/-- A full report queue. -/
def fullQueue : ReportQueue := { reporting with entries := List.replicate 32 entry }

/-- 64 occupied slots at ports 1 to 4. -/
def fullPool : State :=
  let P : Port := { Port.powerOn with queue := List.replicate 16 ⟨fillOf 4, .queued⟩ }
  (((quiet.setPort 1 P).setPort 2 P).setPort 3 P).setPort 4 P

/-- A patch in flight for the PATCH record of port 0. -/
def flight0 : Flight := .taken (.port 0) 0x1000 0 ⟨0, 0⟩

/-- Port 0 RUNNING with its PATCH record current. -/
def claims : Port := idle.claiming patchRecord []

/-- Each way in which the head of an IDLE port can be taken (`Port.TakesHead`): none left, one that waits, one served, one
whose burst starts, and two that are skipped before one is served. -/
theorem witness_TakesHead :
    Port.TakesHead idle idle ∧
    (let Q : Port := { idle with attached := false, queue := [⟨fillOf 4, .queued⟩] }
     Port.TakesHead Q Q) ∧
    Port.TakesHead { idle with queue := [⟨fillOf 4, .queued⟩] } (idle.serving (fillOf 4) [] .outbound) ∧
    Port.TakesHead { idle with rdyLine := true, queue := [⟨fillOf 4, .queued⟩] }
      (({ idle with rdyLine := true } : Port).serving (fillOf 4) [] .outbound |>.bursting (fillOf 4).work) ∧
    ∃ Q', Port.TakesHead { idle with skip := true, queue :=
        [⟨moveOf .inbound 4 true, .queued⟩, ⟨drainOf 4, .queued⟩, ⟨fillOf 4, .queued⟩] } Q' ∧
      Q' = idle.serving (fillOf 4) [] .outbound :=
  ⟨.empty rfl, .waits rfl (by decide) (.inl rfl), .serves rfl rfl rfl rfl rfl (.inr rfl),
    .bursts rfl rfl rfl rfl rfl rfl rfl rfl rfl,
    _, .skips rfl (by decide) rfl rfl rfl rfl rfl rfl (.skips rfl (by decide) rfl rfl rfl rfl rfl rfl
      (.serves rfl rfl rfl rfl rfl (.inr rfl))), by decide⟩

theorem witness_StepRunsFrontCommand :
    ({ quiet with pending := [.fence, .pop] } : State).pending = .fence :: [.pop] := by decide

theorem witness_StepWithoutCommand :
    ((stalling 4).pending = [] ∧ (stalling 4).Live ∧ (stalling 4).dueExpiries ≠ []) ∧
    (let s : State := { quiet with time := ⟨31, 33, 0⟩ }
     s.pending = [] ∧ s.Live ∧ s.dueExpiries = [] ∧ s.time.clkCount + 1 < s.time.stepLength) ∧
    (let s : State := { quiet with time := ⟨32, 33, 63⟩ }
     s.pending = [] ∧ s.Live ∧ s.dueExpiries = [] ∧ s.time.stepLength ≤ s.time.clkCount + 1) := by decide

theorem witness_WindowGates :
    (quiet.Live ∧ quiet.Ready ∧ Instr.wellFormed (.badCommand 0) = true ∧ Instr.wellFormed (.badCommand 14) = true) ∧
    (State.reset.Live ∧ State.reset.win.initBusy = true ∧ DefinedCommand .fence 11) ∧
    (NamesPort (.post 8) 1 8 ∧ NamesPort (.patch 15) 10 15 ∧ 8 ≤ (8 : BitVec 4).toNat) :=
  ⟨by decide, ⟨by decide, by decide, .fence⟩, .post 8, .patch 15, by decide⟩

theorem witness_HeldResetTakesNothing :
    ({ quiet with win := { quiet.win with resetHeld := true } } : State).win.resetHeld = true ∧
    Instr.fence ≠ .powerOnReset := by decide

theorem witness_SoftResetTaken :
    (State.reset.Live ∧ State.reset.win.initBusy = true) ∧ (quiet.Live ∧ quiet.win.initBusy = false) ∧
    (let s := holding (transfer .inbound (moveOf .inbound 4 false))
     s.Live ∧ s.win.initBusy = false ∧ s.arbiter.holder ≠ .none ∧
       (s.arbiter.holder = .patchFetch → s.access.isSome = true)) ∧
    (patching.Live ∧ patching.arbiter.holder = .patchFetch ∧ patching.access.isSome = true) := by decide

theorem witness_StagedRecordKeepsFields :
    (1 : Word).toNat % 8 = 1 ∧ (1 : Word).getLsbD 3 = false ∧ (0x000701F9 : Word).toNat % 8 = 1 ∧
    (0x000701F9 : Word).getLsbD 3 = true ∧ (0xFFFFFFFA : Word).toNat % 8 = 2 ∧ (3 : Word).toNat % 8 = 3 ∧
    (4 : Word).toNat % 8 = 4 ∧ (5 : Word).toNat % 8 = 5 ∧ (8 : Word).toNat % 8 = 0 ∧ 6 ≤ (6 : Word).toNat % 8 ∧
    6 ≤ (7 : Word).toNat % 8 := by decide

theorem witness_PostImageRefused :
    (let s := port0 { Port.powerOn with state := .resetting }
     (0 : BitVec 4).toNat = (0 : PortId).val ∧ s.Ready ∧ (s.port 0).state = .resetting) ∧
    (quiet.Ready ∧ (quiet.port 0).state ≠ .resetting ∧ (0 : Word).toNat % 8 = 0 ∧ 6 ≤ (6 : Word).toNat % 8) ∧
    (¬(1 ≤ (0 : Word).toNat % 65536 ∧ (0 : Word).toNat % 65536 ≤ 16384) ∧
      ¬(1 ≤ (16385 : Word).toNat % 65536 ∧ (16385 : Word).toNat % 65536 ≤ 16384)) ∧
    ((1 ≤ (1 : Word).toNat % 65536 ∧ (1 : Word).toNat % 65536 ≤ 16384) ∧
      1 ≤ (16384 : Word).toNat % 65536 ∧ (16384 : Word).toNat % 65536 ≤ 16384) ∧
    ((1 : Word).toNat % 4 ≠ 0 ∧ (0xFFFFFFFF : Word).toNat % 4 ≠ 0 ∧ (0xFFFFFFFC : Word).toNat % 4 = 0 ∧
      4294967296 < (0xFFFFFFFC : Word).toNat + 4 * ((2 : Word).toNat % 65536)) := by decide

/-- The hypotheses that the statements about POST share, at port 0. -/
abbrev PostsAt (s : State) (r : Record) : Prop :=
  (0 : BitVec 4).toNat = (0 : PortId).val ∧ s.Ready ∧ (s.port 0).state ≠ .resetting ∧
  stagedRecord s.win = some r ∧ r.Accepted

theorem witness_PostRefusedByPort :
    (let s := staged 1 16384 0xFFFF0000 0
     PostsAt s ⟨.move .inbound 16384 0xFFFF0000 false false false, false, false, 0⟩ ∧ (s.port 0).config.mappedOnly = true) ∧
    (let s := staged 5 0 0x1000 0
     PostsAt s ⟨.patch 0x1000, false, false, 0⟩ ∧ (s.port 0).config.patchPermit = false) ∧
    (let s := (staged 4 0 0 0).setPort 0 { idle with msgOpen := true, msgDir := .outbound }
     PostsAt s ⟨.mark, true, false, 0⟩ ∧ (s.port 0).Permits .mark) ∧
    (let s := (staged 3 1 0 0).setPort 0 { idle with queue := [⟨moveOf .outbound 4 true, .queued⟩] }
     PostsAt s ⟨.drain 1 false false, false, false, 0⟩ ∧ (s.port 0).Permits (.drain 1 false false) ∧
       (s.port 0).TailOpenIn .outbound) ∧
    (let s := (staged 2 1 0 9).setPort 0 { idle with
       state := .disabled, queue := [⟨fillOf 4, .queued⟩], config := { PortConfig.defaults with queueQuota := 1 } }
     PostsAt s ⟨.fill 1 9 false, false, false, 0⟩ ∧ (s.port 0).Permits (.fill 1 9 false) ∧ (s.port 0).TailClosed ∧
       (s.port 0).config.queueQuota ≤ (s.port 0).queue.length) ∧
    (let P : Port := { idle with msgOpen := true, msgDir := .outbound }
     P.queue = [] ∧ P.msgOpen = true ∧ P.msgDir = .outbound) ∧
    (let P : Port := { idle with queue := [⟨moveOf .outbound 4 true, .queued⟩] }
     ∃ slot ∈ P.queue.getLast?, slot.record.work.cont = true ∧ slot.record.work.dir = some .outbound) :=
  ⟨by decide, by decide, by decide, ⟨by decide, by decide, .inl ⟨_, rfl, rfl, rfl⟩⟩, by decide, by decide, by decide⟩

theorem witness_PostRefusedPoolEmpty :
    let s := { fullPool with win := (staged 2 1 0 9).win }
    PostsAt s ⟨.fill 1 9 false, false, false, 0⟩ ∧ (s.port 0).Permits (.fill 1 9 false) ∧ (s.port 0).TailClosed ∧
    (s.port 0).queue.length < (s.port 0).config.queueQuota ∧ s.occupied = 64 := by decide

theorem witness_PostAccepted :
    let s := staged 2 1 0 9
    PostsAt s ⟨.fill 1 9 false, false, false, 0⟩ ∧ (s.port 0).state ≠ .idle ∧ (s.port 0).Permits (.fill 1 9 false) ∧
    (s.port 0).TailClosed ∧ (s.port 0).queue.length < (s.port 0).config.queueQuota ∧ s.occupied < 64 := by decide

theorem witness_PostToIdlePort :
    (∀ P ∈ [{ idle with attached := false, queue := [⟨fillOf 4, .queued⟩] }, { idle with resync := true }, idle,
        { idle with rdyLine := true }],
      let s := (staged 2 1 0 9).setPort 0 P
      PostsAt s ⟨.fill 1 9 false, false, false, 0⟩ ∧ (s.port 0).state = .idle ∧ (s.port 0).Permits (.fill 1 9 false) ∧
      (s.port 0).TailClosed ∧ (s.port 0).queue.length < (s.port 0).config.queueQuota ∧ s.occupied < 64 ∧
      (s.port 0).skip = false) ∧
    (let r : Record := ⟨.fill 1 9 false, false, false, 0⟩
     (let Q : Port := { idle with attached := false, queue := [⟨fillOf 4, .queued⟩] ++ [⟨r, .queued⟩] }
      Port.TakesHead Q Q) ∧
     Port.TakesHead { idle with queue := idle.queue ++ [⟨r, .queued⟩] } (idle.serving r [] .outbound) ∧
     Port.TakesHead { idle with rdyLine := true, queue := idle.queue ++ [⟨r, .queued⟩] }
       (({ idle with rdyLine := true } : Port).serving r [] .outbound |>.bursting r.work)) ∧
    ∀ e ∈ [none, some flight0],
      let P : Port := { idle with config := { PortConfig.defaults with patchPermit := true } }
      let s := { (staged 5 0 0x1000 0).setPort 0 P with map := { quiet.map with engine := e } }
      PostsAt s ⟨.patch 0x1000, false, false, 0⟩ ∧ (s.port 0).state = .idle ∧ (s.port 0).queue = [] ∧
      (s.port 0).Permits (.patch 0x1000) ∧ (s.port 0).TailClosed ∧ 0 < (s.port 0).config.queueQuota ∧ s.occupied < 64 ∧
      (s.port 0).resync = false ∧ (s.map.engine = none ∨ s.map.engine ≠ none) :=
  ⟨by decide, ⟨.waits rfl (by decide) (.inl rfl), .serves rfl rfl rfl rfl rfl (.inr rfl),
    .bursts rfl rfl rfl rfl rfl rfl rfl rfl rfl⟩, by decide⟩

theorem witness_PostedRecordRetiresAtOnce :
    (let s := (staged 4 0 0 0).setPort 0 idle
     PostsAt s ⟨.mark, true, false, 0⟩ ∧ (s.port 0).state = .idle ∧ (s.port 0).queue = [] ∧
       (s.port 0).pausePending = false ∧ (s.port 0).msgOpen = false ∧ (s.port 0).resync = false ∧
       1 ≤ (s.port 0).config.queueQuota ∧ s.occupied < 64 ∧ s.reports.entries.length < 32 ∧ (s.port 0).skip = false) ∧
    (let s := (staged 0x23 16384 0 0).setPort 0 { idle with skip := true, config := { idle.config with queueQuota := 1 } }
     PostsAt s ⟨.drain 16384 true false, false, false, 0⟩ ∧ (s.port 0).Permits (.drain 16384 true false) ∧
       (s.port 0).skip = true ∧ (s.port 0).attached = true ∧ (s.port 0).msgDir = .inbound ∧
       (s.port 0).msgOpen = false ∧ 1 ≤ (s.port 0).config.queueQuota) := by decide

theorem witness_PortCommandsRefusedByState :
    (0 : BitVec 4).toNat = (0 : PortId).val ∧ (7 : BitVec 4).toNat = (7 : PortId).val ∧
    ∀ st ∈ [PortState.disabled, .idle, .running, .paused, .halted, .blocked, .resetting],
      (port0 { Port.powerOn with state := st }).Ready ∧ ((port0 { Port.powerOn with state := st }).port 0).state = st ∧
      ((port0 { Port.powerOn with state := st }).port 0).pausePending = false := by decide

theorem witness_WithdrawRemovesQueued :
    let a := moveOf .outbound 4 true
    let b := fillOf 4
    ((port0 idle).Ready ∧ (idle.queue = []) ∧ ∀ slot ∈ ([⟨a, .ended⟩, ⟨{ b with tag := 8 }, .queued⟩] : List Slot),
      slot.stage = .ended ∨ slot.record.tag ≠ 7) ∧
    (let P : Port := { idle with state := .disabled, queue := [⟨{ a with tag := 1 }, .queued⟩, ⟨b, .queued⟩, ⟨b, .queued⟩] }
     P.queue = [⟨{ a with tag := 1 }, .queued⟩] ++ ⟨b, .queued⟩ :: [⟨b, .queued⟩] ∧ b.tag = 7 ∧ b.work.cont = false ∧
       b.work.dir ≠ none ∧ ∃ slot ∈ ([⟨{ a with tag := 1 }, .queued⟩] : List Slot).getLast?, slot.record.work.cont = true) ∧
    (let P : Port := { idle with attached := false, queue := [⟨b, .queued⟩, ⟨b, .queued⟩] }
     P.queue = [] ++ ⟨b, .queued⟩ :: [⟨b, .queued⟩] ∧ P.state = .idle ∧ P.attached = false ∧ P.msgOpen = false ∧
       P.skip = false ∧ b.work.dir ≠ none) := by decide

theorem witness_WithdrawCurrent :
    (let P := transfer .outbound (fillOf 4)
     (port0 P).Ready ∧ P.queue = ⟨fillOf 4, .current⟩ :: [] ∧ P.burstOpen = true ∧ (fillOf 4).work.dir ≠ none) ∧
    (let s := { port0 claims with map := { quiet.map with engine := some flight0 } }
     s.Ready ∧ (s.port 0).queue = ⟨patchRecord, .current⟩ :: [] ∧ patchRecord.work = .patch 0x1000 ∧
       s.map.engine = some flight0 ∧ flight0.origin = .port 0 ∧ flight0.owned = true) ∧
    ((port0 claims).Ready ∧ claims.burstOpen = false ∧ claims.state = .running ∧ (port0 claims).map.engine = none) ∧
    (∀ q ∈ [reporting, fullQueue], ∀ b ∈ [false, true], ∀ st ∈ [PortState.running, .paused],
      let r : Record := { drainOf 4 with reportAlways := true }
      let P : Port := { serve .inbound r with pausePending := b, state := st }
      let s := { port0 P with reports := q }
      s.Ready ∧ P.burstOpen = false ∧ P.queue = ⟨r, .current⟩ :: [] ∧ r.reportAlways = true ∧ P.pausePending = b ∧
      P.state = st ∧ r.work.dir = some P.msgDir ∧ (s.reports.entries.length < 32 ∨ 32 ≤ s.reports.entries.length)) :=
  ⟨by decide, by decide, by decide, by decide⟩

theorem witness_EnableTaken :
    (quiet.Ready ∧ (quiet.port 0).state = .disabled ∧ (quiet.port 0).queue = []) ∧
    (let P : Port := { idle with state := .disabled, attached := false, queue := [⟨fillOf 4, .queued⟩] }
     P.state = .disabled ∧ (∀ slot ∈ P.queue, slot.stage = .queued) ∧ P.attached = false ∧ (fillOf 4).work.dir ≠ none) ∧
    (let P : Port := { idle with state := .disabled, queue := [⟨fillOf 4, .queued⟩] }
     P.attached = true ∧ P.resync = false ∧ P.skip = false ∧ P.rdyLine = false ∧
       (fillOf 4).work.dir = some .outbound) ∧
    (let P : Port := { idle with state := .disabled, queue := [⟨patchRecord, .queued⟩] }
     (∀ slot ∈ P.queue, slot.stage = .queued) ∧ P.resync = false ∧ quiet.map.engine = none ∧ patching.map.engine ≠ none) := by
  decide

theorem witness_DisableTaken :
    (3 : BitVec 4).toNat = (3 : PortId).val ∧ quiet.Ready ∧ (quiet.port 3).state = .disabled ∧
    (port0 (serve .outbound (fillOf 4))).Ready ∧ (serve .outbound (fillOf 4)).state = .running := by decide

theorem witness_PauseTaken :
    (∀ st ∈ [PortState.idle, .blocked, .paused, .disabled, .halted, .resetting],
      (port0 { idle with state := st }).Ready ∧ ((port0 { idle with state := st }).port 0).state = st) ∧
    (let P := serve .outbound (fillOf 4)
     (port0 P).Ready ∧ P.state = .running ∧ P.burstOpen = false ∧ (port0 P).map.engine = none) ∧
    (pausing.Ready ∧ (pausing.port 3).state = .running ∧ (pausing.port 3).burstOpen = true) ∧
    (claims.state = .running ∧ claims.queue = ⟨patchRecord, .current⟩ :: [] ∧
      patchRecord.work = .patch patchRecord.work.address ∧ flight0.origin = .port 0 ∧ flight0.owned = true) := by decide

theorem witness_ResumeTaken :
    (Instr.resumeRecord 0 = .resumeRecord 0 ∧ Instr.resumeMessage 0 = .resumeMessage 0) ∧
    (let P : Port := { serve .outbound (fillOf 4) with state := .paused }
     (port0 P).Ready ∧ P.state = .paused ∧ P.queue = ⟨fillOf 4, .current⟩ :: [] ∧ (fillOf 4).work.dir ≠ none ∧
       P.rdyLine = false) ∧
    (let P : Port := { claims with state := .paused }
     P.state = .paused ∧ P.queue = ⟨patchRecord, .current⟩ :: [] ∧ (port0 P).map.engine = none ∧ P.resync = false ∧
       ({ port0 P with map := patching.map } : State).Ready ∧ patching.map.engine ≠ none) ∧
    (let P := paused3.port 3
     paused3.Ready ∧ P.state = .paused ∧ P.resync = true ∧ ∀ slot ∈ P.queue.head?, slot.stage = .queued ∧
       slot.record.work.dir ≠ none) ∧
    (let P : Port := { transfer .outbound (fillOf 4) with pausePending := true }
     P.state = .running ∧ P.pausePending = true ∧ P.burstOpen = true ∧ P.resync = false) ∧
    (let P : Port := { idle with state := .halted, msgOpen := true }
     P.state = .halted ∧ P.queue.head? = none) := by decide

theorem witness_FlushTaken :
    (let s := { port0 { idle with state := .halted, queue := [⟨fillOf 4, .queued⟩] } with reports := fullQueue }
     s.Ready ∧ (s.port 0).state = .halted ∧ (s.port 0).queue ≠ [] ∧ 32 ≤ s.reports.entries.length) ∧
    (let s := { port0 { idle with queue := [⟨fillOf 4, .queued⟩] } with
       reports := { reporting with entries := List.replicate 31 entry } }
     s.Ready ∧ (s.port 0).state = .idle ∧ s.reports.entries.length < 32) ∧
    (let s := { quiet with reports := fullQueue }
     s.Ready ∧ (s.port 0).state = .disabled ∧ (s.port 0).queue = []) := by decide

theorem witness_PortResetTaken :
    (0 : BitVec 4).toNat = (0 : PortId).val ∧
    (let s := holding (transfer .inbound (moveOf .inbound 4 false))
     s.Ready ∧ (s.port 0).state ≠ .resetting ∧ s.arbiter.holder = .port 0) ∧
    (let s := { port0 claims with map := { quiet.map with engine := some flight0 } }
     s.Ready ∧ (s.port 0).state ≠ .resetting ∧ s.map.engine = some flight0) := by decide

theorem witness_PatchTaken :
    (State.reset.Live ∧ State.reset.win.initBusy = true) ∧ (quiet.Live ∧ quiet.Ready) ∧
    (8 ≤ (8 : BitVec 4).toNat ∧ (7 : BitVec 4).toNat < 8 ∧ (7 : BitVec 4).toNat = (7 : PortId).val) ∧
    ((0xFFFFFFFD : Word).toNat % 4 ≠ 0 ∧ (0xFFFFFFFC : Word).toNat % 4 = 0) ∧
    (patching.Ready ∧ patching.map.engine ≠ none ∧ patching.map.patchAddr.toNat % 4 = 0) ∧
    (quiet.map.patchAddr.toNat % 4 = 0 ∧ quiet.map.engine = none) := by decide

theorem witness_FenceTaken :
    (let s : State := { quiet with map := { quiet.map with fencePending := true } }
     s.Live ∧ s.map.fencePending = true) ∧ (State.reset.Live ∧ State.reset.win.initBusy = true) ∧
    (quiet.Ready ∧ quiet.map.fencePending = false) ∧
    (let m : MapUnit := { quiet.map with fencePending := true, fenceSet := quiet.map.fenceSet.insert 3 }
     m.fenceSet.mem 0 = false ∧ m.fenceSet.mem 3 = true ∧ m.fencePending = true ∧
       (∀ q : PortId, q ≠ 3 → m.fenceSet.mem q = false) ∧ (m.fenceSet.insert 7).mem 7 = true) := by decide

theorem witness_PostingAnnounces :
    let waiting (q : ReportQueue) := (q.entries.filter fun e => !e.announced).length
    (reporting.threshold ≤ waiting { reporting with entries := List.replicate 3 { entry with announced := false } } + 1) ∧
    ¬(reporting.threshold ≤ waiting { reporting with entries := List.replicate 2 { entry with announced := false } } + 1) ∧
    ReportQueue.powerOn.holdoff = 0 ∧ reporting.holdoff ≠ 0 := by decide

theorem witness_PopTaken :
    ((quiet.Ready ∧ quiet.reports.entries = []) ∧
    (let s := { quiet with reports := reporting }
     s.Ready ∧ s.reports.entries = entry :: [entry] ∧ s.reports.blocked = []) ∧
    (∀ st ∈ [(Status.stalled, false), (.done, true), (.done, false)],
      let rep : Report := .record 0 st.1 7 2 false 0 false .absent
      let s := { port0 { idle with
          state := .blocked, queue := [⟨moveOf .inbound 4 false, .ended⟩, ⟨fillOf 4, .queued⟩], heldReport := some rep
          pausePending := st.2 } with reports := { fullQueue with blocked := [0] } }
      s.Ready ∧ s.reports.blocked = 0 :: [] ∧ (s.port 0).heldReport = some rep ∧
      (s.port 0).queue = ⟨moveOf .inbound 4 false, .ended⟩ :: [⟨fillOf 4, .queued⟩] ∧ (s.port 0).pausePending = st.2 ∧
      (s.port 0).state ≠ .paused ∧ (s.port 0).skip = false ∧ s.map.fenceSet.mem 0 = false ∧
      s.reports.entries = entry :: List.replicate 31 entry)) ∧
    Port.TakesHead { idle with queue := [⟨fillOf 4, .queued⟩] } (idle.serving (fillOf 4) [] .outbound) :=
  ⟨by decide, witness_TakesHead.2.2.1⟩

theorem witness_AckPeekChooses :
    (serving.Live ∧ serving.eligible 8 = true ∧ ∀ c : Fin 10, serving.eligible c.val = true →
      serving.attn.level 8 ≤ serving.attn.level c.val ∧ (serving.attn.level c.val = serving.attn.level 8 → 8 ≤ c.val)) ∧
    (quiet.Live ∧ ∀ c : Fin 10, quiet.eligible c.val = false) := by decide

theorem witness_AckNestEnters :
    (let s : State := { quiet with attn := { quiet.attn with csl := 0, stack := [1, 2, 3, 4] } }
     s.Live ∧ 4 ≤ s.attn.stack.length) ∧
    (quiet.Live ∧ quiet.attn.stack.length < 4 ∧ ∀ c : Fin 10, quiet.eligible c.val = false) ∧
    (serving.attn.stack.length < 4 ∧ serving.eligible 8 = true ∧ ∀ c : Fin 10, serving.eligible c.val = true →
      serving.attn.level 8 ≤ serving.attn.level c.val ∧ (serving.attn.level c.val = serving.attn.level 8 → 8 ≤ c.val)) := by
  decide

theorem witness_EndOfService :
    (serving.Live ∧ serving.attn.stack = 4 :: []) ∧ (quiet.Live ∧ quiet.attn.stack = []) ∧
    (serving.attn.stack.length < 4 ∧ serving.eligible 8 = true) ∧
    ∃ t, exec (.acknest false) serving = .next t :=
  ⟨by decide, by decide, by decide, _, rfl⟩

theorem witness_StatusFieldsCleared : quiet.Live := by decide

theorem witness_ControlRegistersWritten :
    quiet.Live ∧
    ((0xFFFF00FF : Word).toNat / 256 % 256 = 0 ∧ (0x100 : Word).toNat / 256 % 256 ≠ 0) ∧
    (State.reset.win.initBusy = true ∧ quiet.win.initBusy = false ∧ (0 : Word).toNat % 64 = 0 ∧
      32 < (33 : Word).toNat % 64 ∧ 1 ≤ (1 : Word).toNat % 64 ∧ (32 : Word).toNat % 64 ≤ 32) ∧
    (1 ≤ ([{ entry with announced := false }].filter fun e : ReportEntry => !e.announced).length) ∧
    ((quiet.port 0).state = .disabled ∧ (idle.state ≠ .disabled)) ∧
    (1024 < (0x000203FF : Word).toNat % 1024 + (0x000203FF : Word).toNat / 65536 % 2048 ∧
      (0x04000000 : Word).toNat % 1024 + (0x04000000 : Word).toNat / 65536 % 2048 ≤ 1024) := by decide

theorem witness_RegistersWritten :
    quiet.Live ∧ State.reset.win.initBusy = true ∧ quiet.win.initBusy = false ∧ 1023 < (1024 : Word).toNat ∧
    (1023 : Word).toNat ≤ 1023 ∧ Instr.wellFormed (.registerWrite 0x00 false 5) = true ∧
    (0x00 : BitVec 8) ∉ ([0x14, 0x18, 0x1C, 0x20, 0x38, 0x44, 0x48, 0x50, 0x54] : List (BitVec 8)) := by decide

theorem witness_MapdataAccessed :
    (State.reset.Live ∧ State.reset.map.wf ∧ State.reset.win.initBusy = true) ∧
    (∀ d ∈ [Disturbance.none, .oneBit, .twoBits],
      (mapped d).Live ∧ (mapped d).map.wf ∧ (mapped d).win.initBusy = false ∧
      ((mapped d).map.entry 41).poisoned = false ∧ ((mapped d).map.entry 41).disturbance = d) := by decide

theorem witness_MapInitialised :
    (quiet.Live ∧ quiet.map.wf ∧ quiet.win.initBusy = false) ∧
    (∀ n ∈ [0, 1023], let s : State := { State.reset with map := { State.reset.map with
        entries := [(0, open_ 1), (1023, open_ 2)], initNext := n } }
      s.Live ∧ s.map.wf ∧ s.win.initBusy = true ∧ s.map.initNext < 1024) := by decide

theorem witness_DisturbanceTaken :
    (mapped .none).Live ∧ (mapped .none).map.wf ∧ ((mapped .none).map.entry 41).poisoned = false ∧
    ((mapped .none).map.entry 41).disturbance = .none ∧ ((mapped .oneBit).map.entry 41).disturbance ≠ .none ∧
    ((after (.mapdataRead false) (mapped .twoBits)).map.entry 41).poisoned = true ∧
    (after (.mapdataRead false) (mapped .twoBits)).map.wf := by decide

theorem witness_AttachTaken :
    (quiet.Live ∧ (quiet.port 0).state ≠ .idle ∧ idle.queue = []) ∧
    (let P : Port := { Port.powerOn with state := .idle, queue := [⟨fillOf 4, .queued⟩] }
     (port0 P).Live ∧ P.state = .idle ∧ P.queue = ⟨fillOf 4, .queued⟩ :: [] ∧ (fillOf 4).work.dir = some .outbound ∧
       P.skip = false ∧ P.rdyLine = false) := by decide

theorem witness_DetachAndFaultEndRecords :
    ((port0 idle).Live ∧ idle.currentData = none) ∧
    (∀ c ∈ [none, some Cut.detached, some .periphFault],
      let s := { holding { transfer .inbound (moveOf .inbound 4 false) with cut := c } with access := some (.read 0x1000) }
      s.Live ∧ (s.port 0).queue = ⟨moveOf .inbound 4 false, .current⟩ :: [] ∧ (moveOf .inbound 4 false).work.dir ≠ none ∧
      (s.port 0).phase = .transferring ∧ s.arbiter.holder = .port 0 ∧ s.access ≠ none ∧ (s.port 0).cut = c) ∧
    (∀ n ∈ [31, 32],
      let s := { port0 (serve .outbound (fillOf 4)) with reports := { reporting with entries := List.replicate n entry } }
      s.Live ∧ (s.port 0).queue = ⟨fillOf 4, .current⟩ :: [] ∧ (s.port 0).phase ≠ .transferring ∧
      s.reports.entries.length = n) := by decide

theorem witness_ConfirmationTaken :
    ((let P := serve .outbound (fillOf 4)
     (port0 P).Live ∧ P.queue = ⟨fillOf 4, .current⟩ :: [] ∧ (fillOf 4).work.dir = some .outbound ∧ P.phase ≠ .confirming) ∧
    (∀ n ∈ [3, 4], ∀ b ∈ [false, true], ∀ c ∈ [false, true], ∀ y ∈ [false, true], ∀ q ∈ [reporting, fullQueue],
      let r : Record := { fillOf 4 with reportAlways := true }
      let P : Port := { serve .outbound r with
        phase := .confirming, exchanged := n, pausePending := b, abortPending := c, rdyLine := y }
      let s := { port0 P with reports := q }
      s.Live ∧ P.phase = .confirming ∧ P.state = .running ∧ P.msgDir = .outbound ∧ P.skip = false ∧ P.resync = false ∧
      s.arbiter.holder ≠ .port 0 ∧ P.pausePending = b ∧ P.abortPending = c ∧ P.rdyLine = y ∧ r.work.isMove = false ∧
      (P.moved + P.exchanged < 4 ∨ 4 ≤ P.moved + P.exchanged) ∧
      (s.reports.entries.length < 32 ∨ 32 ≤ s.reports.entries.length))) ∧
    (let P : Port := { serve .outbound (fillOf 4) with
       queue := [⟨fillOf 4, .current⟩, ⟨fillOf 4, .queued⟩], phase := .confirming, exchanged := 4 }
     ∃ next, Port.TakesHead { P.recordGone with
       moved := 4, msgOpen := false, wordsPassed := false, endPassed := false, state := .idle } next) :=
  ⟨by decide, _, .serves rfl rfl rfl rfl rfl (.inr rfl)⟩

theorem witness_RepeatTaken :
    (let P := serve .outbound (fillOf 4)
     (port0 P).Live ∧ P.queue = ⟨fillOf 4, .current⟩ :: [] ∧ P.state = .running ∧ P.phase = .waiting) ∧
    (let s := { holding (transfer .outbound (moveOf .outbound 4 false)) with access := some (.read 0x1000) }
     s.Live ∧ (s.port 0).phase = .transferring ∧ (s.port 0).cut = none ∧ s.arbiter.holder = .port 0 ∧ s.access ≠ none) ∧
    (let P : Port := { transfer .outbound (fillOf 4) with answered := true }
     (port0 P).Live ∧ P.phase = .transferring ∧ P.cut = none ∧ P.answered = true ∧ P.exchanged = 0 ∧
       (port0 { P with answered := false }).arbiter.holder ≠ .port 0) ∧
    (∀ n ∈ [2, 3], ∀ b ∈ [false, true],
      let P : Port := { serve .outbound (fillOf 4) with
        phase := .confirming, position := 4, exchanged := 4, burstLength := 4, repeats := n, pausePending := b
        abortPending := b }
      (port0 P).Live ∧ P.state = .running ∧ P.msgDir = .outbound ∧ P.skip = false ∧ P.resync = false ∧
      P.pausePending = b ∧ P.abortPending = b ∧ (P.repeats < P.config.repeatLimit.toNat ∨ P.config.repeatLimit.toNat ≤ P.repeats)) := by decide

/-- Port 0 in its own burst while port 1's host access is under way (R94). -/
def beside (P : Port) : State := { port0 P with arbiter := ⟨.port 1, 1, 7, 0⟩, access := some (.read 0x2000) }

theorem witness_ReadyLevelTaken :
    (let P := serve .outbound (moveOf .outbound 4 false)
     (port0 P).Live ∧ (moveOf .outbound 4 false).work.isMove = true ∧ P.phase ≠ .transferring) ∧
    (let P := serve .outbound (fillOf 4)
     (port0 P).Live ∧ P.queue = ⟨fillOf 4, .current⟩ :: [] ∧ P.resync = false ∧ P.abortPending = false ∧
       P.pausePending = false ∧ (fillOf 4).work.isMove = false ∧ P.state = .running ∧ P.phase = .waiting ∧ P.skip = false) ∧
    (∀ n ∈ [0, 1],
      let s := holding { transfer .outbound (moveOf .outbound 4 false) with exchanged := n, inHand := some 5 }
      s.Live ∧ (s.port 0).state = .running ∧ (s.port 0).phase = .transferring ∧ (s.port 0).lookupRequest = false ∧
      (s.port 0).cut = none ∧ s.access = none ∧ s.arbiter.holder = .port 0 ∧ (s.port 0).inHand ≠ none) ∧
    (let s := beside (transfer .outbound (fillOf 4))
     s.Live ∧ (s.port 0).state = .running ∧ (s.port 0).phase = .transferring ∧ (s.port 0).lookupRequest = false ∧
     (s.port 0).cut = none ∧ ¬(s.arbiter.holder = .port 0 ∧ s.access ≠ none) ∧ (fillOf 4).work.isMove = false) := by decide

theorem witness_InboundWordTaken :
    (let P := serve .inbound (drainOf 4)
     (port0 P).Live ∧ P.queue = ⟨drainOf 4, .current⟩ :: [] ∧ (drainOf 4).work.dir = some .inbound ∧ P.rdyLine = false) ∧
    (∀ m ∈ [true, false],
      let r : Record := ⟨.move .inbound 4 0x1000 m false false, false, false, 7⟩
      let s := holding { transfer .inbound r with latch := some ⟨1, 0xFFFFF⟩ }
      s.Live ∧ (s.port 0).rdyLine = true ∧ (s.port 0).state = .running ∧ (s.port 0).phase = .transferring ∧
      (s.port 0).lookupRequest = false ∧ (s.port 0).cut = none ∧ s.access = none ∧ r.work.mapped = m ∧
      (s.port 0).latch = some ⟨1, 0xFFFFF⟩) ∧
    (let P : Port := { transfer .inbound (drainOf 4) with moved := 2, position := 2, exchanged := 2 }
     (port0 P).access = none ∧ P.endTaken = false ∧ P.moved + 1 < 4 ∧ P.exchanged + 1 < P.burstLength) ∧
    (let P : Port := { transfer .inbound (drainOf 4) with moved := 2, position := 2, exchanged := 2, burstLength := 3 }
     (port0 P).access = none ∧ P.endTaken = false ∧ P.moved + 1 < 4 ∧ P.burstLength ≤ P.exchanged + 1 ∧
       P.msgDir = .inbound ∧ P.skip = false ∧ P.resync = false) ∧
    (let s := beside { transfer .inbound (drainOf 4) with moved := 2, position := 2, exchanged := 2 }
     s.Live ∧ (s.port 0).rdyLine = true ∧ s.access ≠ none ∧ ¬(s.arbiter.holder = .port 0 ∧ s.access ≠ none)) := by decide

theorem witness_OutboundWordSent :
    (let P : Port := { transfer .outbound (fillOf 4) with position := 2, exchanged := 2 }
     (port0 P).Live ∧ P.queue = ⟨fillOf 4, .current⟩ :: [] ∧ (fillOf 4).work = .fill 4 99 false ∧ P.state = .running ∧
       P.phase = .transferring ∧ P.lookupRequest = false ∧ P.cut = none ∧ (port0 P).access = none ∧ P.rdyLine = true ∧
       P.exchanged + 1 < P.burstLength ∧ P.position + 1 < 4) ∧
    (∀ m ∈ [true, false],
      let r : Record := ⟨.move .outbound 4 0x1000 m false false, false, false, 7⟩
      let s := holding { transfer .outbound r with latch := some ⟨1, 5⟩, inHand := some 8 }
      s.Live ∧ r.work.isMove = true ∧ r.work.dir = some .outbound ∧ (s.port 0).inHand = some 8 ∧
      s.arbiter.holder = .port 0 ∧ s.access = none ∧ r.work.mapped = m ∧ (s.port 0).latch = some ⟨1, 5⟩) ∧
    (let P : Port := { transfer .outbound (fillOf 4) with position := 3, exchanged := 3 }
     P.rdyLine = true ∧ P.burstLength ≤ P.exchanged + 1 ∧ ({ P with rdyLine := false } : Port).rdyLine = false) ∧
    (let s := beside (transfer .outbound (fillOf 4))
     s.Live ∧ (s.port 0).rdyLine = true ∧ s.access ≠ none ∧ ¬(s.arbiter.holder = .port 0 ∧ s.access ≠ none)) := by decide

theorem witness_DiscardTaken :
    ((port0 idle).Live ∧ idle.resync = false) ∧
    (∀ n ∈ [0, 65535], ∀ st ∈ [PortState.idle, .running, .halted],
      let P : Port := { idle with state := st, resync := true, rdyLine := true, discarded := n }
      (port0 P).Live ∧ P.resync = true ∧ P.attached = true ∧ P.currentData = none ∧ P.rdyLine = true ∧
      P.dirLine = .inbound ∧ P.skip = false) ∧
    (let P : Port := { idle with resync := true, rdyLine := true, queue := [⟨moveOf .inbound 4 false, .queued⟩] }
     Port.TakesHead { P with discarded := 1, lines := some ⟨.inbound, 5, false⟩ }
       { P with discarded := 1, lines := some ⟨.inbound, 5, false⟩ } ∧
     ∃ Q, Port.TakesHead { P with discarded := 1, resync := false, lines := some ⟨.inbound, 5, true⟩ } Q ∧
       Q.state = .running) :=
  ⟨by decide, by decide, .waits rfl (by decide) (.inr rfl), _, .serves rfl rfl rfl rfl rfl (.inl rfl), rfl⟩

theorem witness_HostAccessEnds :
    (let s := { holding { Port.powerOn with state := .resetting } with access := some (.read 0x1000) }
     s.Live ∧ s.arbiter.holder = .port 0 ∧ s.access = some (.read 0x1000) ∧ (s.port 0).state = .resetting) ∧
    (∀ d ∈ [Direction.inbound, .outbound], ∀ c ∈ [none, some Cut.detached, some .periphFault, some .repeatRequest],
      ∀ y ∈ [true, false], ∀ n ∈ [0, 2, 3], ∀ k ∈ [2, 3],
      let r := moveOf d 5 false
      let s := { holding { transfer d r with
          moved := n, position := n, exchanged := n, cut := c, rdyLine := y, repeats := k } with
        access := some (.read 0x1000) }
      s.Live ∧ s.arbiter.holder = .port 0 ∧ s.access = some (.read 0x1000) ∧ (s.port 0).state = .running ∧
      (s.port 0).phase = .transferring ∧ (s.port 0).rdyLine = y ∧ (s.port 0).resync = false ∧ (s.port 0).skip = false ∧
      (s.port 0).queue = ⟨r, .current⟩ :: [] ∧ (s.port 0).cut = c ∧ r.work.dir = some d ∧ (s.port 0).msgDir = d ∧
      (s.port 0).endTaken = false ∧ (s.port 0).moved + 1 < r.work.length ∧ (s.port 0).position < r.work.length ∧
      (s.port 0).exchanged = n ∧ ((s.port 0).exchanged + 1 < (s.port 0).burstLength ∨
        (s.port 0).burstLength ≤ (s.port 0).exchanged + 1) ∧
      ((s.port 0).repeats < (s.port 0).config.repeatLimit.toNat ∨
        (s.port 0).config.repeatLimit.toNat ≤ (s.port 0).repeats)) := by decide

theorem witness_InboundRecordEnds :
    (∀ n ∈ [2, 3], ∀ e ∈ [true, false], ∀ k ∈ [true, false], ∀ c ∈ [true, false],
      let r : Record := ⟨.move .inbound 4 0x1000 true c k, false, false, 7⟩
      let s := { holding { transfer .inbound r with
          moved := n, position := n, exchanged := n, endTaken := e } with access := some (.write 0x1000 1) }
      s.Live ∧ s.arbiter.holder = .port 0 ∧ s.access = some (.write 0x1000 1) ∧
      (s.port 0).state = .running ∧ (s.port 0).phase = .transferring ∧ (s.port 0).cut = none ∧
      (s.port 0).resync = false ∧ (s.port 0).msgOpen = true ∧ (s.port 0).skip = false ∧
      (s.port 0).queue = ⟨r, .current⟩ :: [] ∧ r.work.dir = some .inbound ∧ (s.port 0).endTaken = e ∧
      r.work.shortOk = k ∧ r.work.cont = c ∧ (r.work.length ≤ (s.port 0).moved + 1 ∨ ¬r.work.length ≤ (s.port 0).moved + 1)) ∧
    (∀ n ∈ [2, 3], ∀ k ∈ [true, false], ∀ c ∈ [true, false], ∀ q ∈ [reporting, fullQueue],
      let r : Record := ⟨.drain 4 c k, true, false, 7⟩
      let s := { beside { transfer .inbound r with moved := n, position := n, exchanged := n } with reports := q }
      s.Live ∧ (s.port 0).state = .running ∧ (s.port 0).phase = .transferring ∧ (s.port 0).cut = none ∧
      (s.port 0).resync = false ∧ (s.port 0).msgOpen = true ∧ (s.port 0).skip = false ∧
      (s.port 0).queue = ⟨r, .current⟩ :: [] ∧ r.work.dir = some .inbound ∧ r.work.isMove = false ∧
      (s.port 0).rdyLine = true ∧ (s.port 0).lookupRequest = false ∧ ¬(s.arbiter.holder = .port 0 ∧ s.access ≠ none) ∧
      (s.reports.entries.length < 32 ∨ 32 ≤ s.reports.entries.length)) :=
  ⟨by decide, by decide⟩

theorem witness_GrantTaken :
    (let s := holding idle
     s.Live ∧ s.arbiter.holder ≠ .none) ∧
    (let s := { quiet with map := { quiet.map with engine := some flight0 } }
     s.Live ∧ s.arbiter.holder = .none ∧ s.map.engine = some flight0 ∧ flight0.fetching = false) ∧
    (quiet.arbiter.holder = .none ∧ quiet.map.engine = none ∧ ∀ q, (quiet.port q).requests = false) ∧
    (crossing.arbiter.holder = .none ∧ crossing.map.engine = none ∧ (crossing.port 4).requests = true ∧
      (crossing.port 4).config.cls = .normal ∧ (∀ q : PortId, q ≠ 4 → (crossing.port q).requests = false) ∧
      (crossing.port 4).queue = ⟨⟨.move .inbound 40 0x2FE0 true false true, true, false, 0x300⟩, .current⟩ :: []) ∧
    (∀ run ∈ [0, 3, 4],
      let P := { serve .outbound ⟨.move .outbound 4 0xFFC true false false, false, false, 7⟩ with
        rdyLine := true, latch := some ⟨0, 9⟩, config := { PortConfig.defaults with cls := .urgent } }
      let s := { port0 P with arbiter := ⟨.none, 0, 7, run⟩ }
      s.Live ∧ s.arbiter.holder = .none ∧ (s.port 0).requests = true ∧ (s.port 0).config.cls = .urgent ∧
      (∀ q : PortId, q ≠ 0 → (s.port q).requests = false) ∧ (s.port 0).latch = some ⟨(0xFFC + 4 * P.position) / 4096, 9⟩) := by
  decide

/-- A lookup request of port 0 for page 1 through the window 40, 2, on an entry. -/
def lookingUp (d : Direction) (e : MapEntry) : State :=
  let s := holding { transfer d (moveOf d 4 false) with lookupRequest := true, window := ⟨40, 2⟩ }
  { s with map := { s.map with entries := [(41, e)] } }

theorem witness_LookupTaken :
    (let P := serve .inbound (moveOf .inbound 4 false)
     (port0 P).Live ∧ P.lookupRequest = false ∧ P.queue = ⟨moveOf .inbound 4 false, .current⟩ :: []) ∧
    (∀ d ∈ [Direction.inbound, .outbound],
      ∀ e ∈ [open_ 5, { open_ 5 with poisoned := true }, ⟨⟨5, false, true, true⟩, false, .none⟩,
        ⟨⟨5, true, false, false⟩, false, .none⟩, { open_ 5 with disturbance := .twoBits }],
      let s := lookingUp d e
      s.Live ∧ (s.port 0).queue = ⟨moveOf d 4 false, .current⟩ :: [] ∧ (s.port 0).lookupRequest = true ∧
      (0x1000 + 4 * (s.port 0).burstStart) / 4096 = 1 ∧ 1 < (s.port 0).window.span ∧ s.map.wf ∧ s.map.entry 41 = e ∧
      (s.port 0).rdyLine = true ∧ (s.port 0).state = .running ∧ (s.port 0).phase = .transferring) ∧
    (let s := (lookingUp .inbound (open_ 5)).setPort 0 { (lookingUp .inbound (open_ 5)).port 0 with window := ⟨40, 1⟩ }
     s.Live ∧ (s.port 0).lookupRequest = true ∧ (s.port 0).window.span ≤ 1) := by decide

/-- A host patch of the block at 80000h that is being fetched. -/
def fetching (f : Flight) : State :=
  { quiet with
    arbiter := ⟨.patchFetch, 7, 7, 0⟩, access := some (.read 0x80000)
    map := { quiet.map with engine := some { f with origin := .host, address := 0x80000, fetching := true } } }

theorem witness_PatchFetchReads :
    (let s := fetching flight0
     s.Live ∧ s.arbiter.holder = .patchFetch ∧ s.access = some (.read 0x80000) ∧ ∃ f ∈ s.map.engine, f.fetching = true ∧
       f.wordsRead = 0) ∧
    (1 ≤ (0x001 : Word).toNat % 256 ∧ (0x001 : Word).toNat / 256 % 4 ≤ 1 ∧ (0x120 : Word).toNat % 256 ≤ 32 ∧
      (0x120 : Word).toNat / 256 % 4 ≤ 1 ∧ 0x80000 + 4 * (1 + 2 * 32) ≤ 4294967296) ∧
    (∃ f ∈ (fetching { flight0 with wordsRead := 1, count := 2 }).map.engine, f.wordsRead ≠ 0 ∧ f.index = none ∧
      f.relative = false ∧ (1023 : Word).toNat < 1024) ∧
    (∃ f ∈ (fetching { flight0 with wordsRead := 1, count := 2, relative := true, base := 1000, span := 24 }).map.engine,
      f.relative = true ∧ (23 : Word).toNat < f.span ∧ f.base + (23 : Word).toNat < 1024) ∧
    (∃ f ∈ (fetching { flight0 with wordsRead := 2, count := 2, index := some 1023 }).map.engine,
      f.wordsRead ≠ 0 ∧ f.index = some 1023 ∧ f.staging.length + 1 < f.count) := by decide

/-- A patch in flight for port 0, its PATCH record held or dropped, with the claims of ports 3 and 5 waiting. -/
def claimed (q : ReportQueue) (owned : Bool) : State :=
  { ((fetching flight0).setPort 0 claims).setPort 3 claims with
    map := { quiet.map with
      engine := some { flight0 with fetching := true, owned := owned }
      waiting := (quiet.map.waiting.insert 5).insert 3 }
    reports := q }

/-- The claims that the end of a patch leaves: none waiting, or the lowest-numbered port's taken. -/
theorem witness_NextClaim :
    (fetching flight0).NextClaim none (fetching flight0).map.waiting ∧
    (claimed reporting true).NextClaim (some (.taken (.port 3) 0x1000 3 ⟨0, 0⟩))
      ((claimed reporting true).map.waiting.erase 3) :=
  ⟨.inl ⟨by decide, rfl, rfl⟩, .inr ⟨3, 0x1000, by decide, by decide, by decide, by decide, rfl⟩⟩

theorem witness_PatchEnds :
    (∃ e w, (fetching flight0).NextClaim e w) ∧ (∃ e w, (claimed fullQueue false).NextClaim e w) ∧
    (let s := fetching flight0
     s.Live ∧ s.arbiter.holder = .patchFetch ∧ s.access = some (.read 0x80000) ∧ s.map.waiting.isEmpty = true ∧ s.map.wf ∧
       ∃ f ∈ s.map.engine, f.fetching = true ∧ f.origin = .host ∧ f.wordsRead = 0) ∧
    (∀ q ∈ [reporting, fullQueue], ∀ owned ∈ [true, false],
      let s := claimed q owned
      s.Live ∧ s.arbiter.holder = .patchFetch ∧ s.access = some (.read 0x80000) ∧ (s.port 0).state = .running ∧
      (s.port 0).queue = ⟨patchRecord, .current⟩ :: [] ∧ patchRecord.work = .patch 0x1000 ∧ s.map.wf ∧
      (s.reports.entries.length < 32 ∨ 32 ≤ s.reports.entries.length) ∧
      ∃ f ∈ s.map.engine, f.fetching = true ∧ f.origin = .port 0 ∧ f.owned = owned ∧ f.wordsRead = 0) ∧
    ((0 : Word).toNat % 256 = 0 ∧ 32 < (33 : Word).toNat % 256) ∧
    (2 ≤ (0x201 : Word).toNat / 256 % 4 ∧ 1 ≤ (0x201 : Word).toNat % 256 ∧
      0x80000 + 4 * (1 + 2 * ((0x201 : Word).toNat % 256)) ≤ 4294967296) ∧
    (∃ f ∈ (fetching { flight0 with wordsRead := 1, count := 1, relative := true, base := 1000, span := 25 }).map.engine,
      f.wordsRead ≠ 0 ∧ f.index = none ∧ f.relative = true ∧ 1024 ≤ f.base + (24 : Word).toNat ∧
      f.span ≤ (25 : Word).toNat) ∧
    (∃ f ∈ (fetching { flight0 with wordsRead := 1, count := 1 }).map.engine,
      f.index = none ∧ f.relative = false ∧ 1024 ≤ (1024 : Word).toNat) ∧
    (∃ f ∈ (fetching { flight0 with wordsRead := 2, count := 1, index := some 0 }).map.engine,
      f.wordsRead ≠ 0 ∧ f.index = some 0 ∧ f.count ≤ f.staging.length + 1) := by
  refine ⟨⟨_, _, witness_NextClaim.1⟩, ⟨_, _, .inr ⟨3, 0x1000, by decide, by decide, by decide, rfl, rfl⟩⟩, ?_⟩
  refine ⟨by decide, ?_, by decide, by decide, by decide, by decide, by decide⟩
  intro q hq owned ho
  fin_cases hq <;> fin_cases ho <;> decide

theorem witness_TimersTaken :
    ((stalling 3).Live ∧ ((stalling 3).port 1).stallTimer = some 3 ∧
      3 < ((stalling 3).port 1).config.stallLimit.toNat) ∧
    (let P := (stalling 4).port 1
     (stalling 4).Live ∧ P.stallTimer = some 4 ∧ 1 ≤ P.config.stallLimit.toNat ∧ P.state = .running ∧
       P.currentData ≠ none ∧ P.phase = .waiting ∧ P.rdyLine = false ∧ P.config.stallLimit.toNat ≤ 4) ∧
    (({ idle with can := some 2 } : Port).can = some 2 ∧ ∀ k, ({ idle with can := some 1 } : Port).can = some k → k < 2) ∧
    (∀ n ∈ [2, 3], ({ reporting with holdoffTimer := some n } : ReportQueue).holdoffTimer = some n ∧
      (n < reporting.holdoff ∨ reporting.holdoff ≤ n)) := by decide

/-! A state of full use that meets every law: port 4 of section 5.8 in its burst. -/

/-- `crossing` after its grant and lookup. -/
def inBurst : State := after (.lookup 4) (after .grant crossing)

theorem witness_LevelStackKept : serving.attn.Law ∧ ∃ t, step serving = .next t := ⟨by decide, _, rfl⟩

theorem witness_ReportQueueLawKept :
    (let q : ReportQueue := ⟨[entry, { entry with announced := false }], [], some 3, false, 4, 3⟩
     ({ quiet with reports := q } : State).reports.Law) ∧ ({ quiet with reports := fullQueue } : State).reports.Law := by
  decide

theorem witness_MapLawsKept :
    let s : State := { inBurst with
      map := { inBurst.map with fencePending := true, fenceSet := inBurst.map.fenceSet.insert 4 }, pending := [.mapdataRead false] }
    s.map.TableLaw ∧ s.FenceLaw := by decide

theorem witness_PoolLawKept : fullPool.PoolLaw ∧ fullPool.occupied = 64 := by decide

theorem witness_BlockedLawKept :
    let s := { port0 { idle with
        state := .blocked, queue := [⟨moveOf .inbound 4 false, .ended⟩]
        heldReport := some (.record 0 .stalled 7 2 false 0 false .absent) } with
      reports := { fullQueue with blocked := [0] }, pending := [.pop] }
    (∀ p, (s.port p).QueueLaw) ∧ s.BlockedLaw ∧ s.reports.Law := by decide

/-- A port without a current data record meets the laws if its queue, flags and registers do. -/
theorem law_of_no_current {P : Port} (h : P.currentData = none) (hq : P.QueueLaw ∧ P.FlagLaw ∧ P.ChainLaw)
    (hs : P.phase = .none ∧ P.latch = none ∧ P.stallTimer = none ∧ P.lookupRequest = false ∧ P.cut = none ∧
      P.inHand = none ∧ P.abortPending = false)
    (hr : P.RangeLaw ∧ ∀ slot ∈ P.queue, slot.record.Accepted) : P.Law := by
  refine ⟨hq.1, hq.2.1, hq.2.2, ?_, ?_, hr.1, hr.2⟩
  · unfold Port.ServedLaw; rw [h]; exact hs
  · unfold Port.ProgressLaw; rw [h]; trivial

theorem witness_SoundKept : ({ inBurst with pending := [.inboundWordTaken 4 5 false] } : State).Sound := by
  refine ⟨fun p => ?_, by decide, by decide, by decide, by decide, by decide, by decide, by decide⟩
  by_cases hp : p = 4
  · subst hp
    refine ⟨by decide, by decide, by decide, ?_, ?_, by decide, by decide⟩
    · refine And.intro ?_ (And.intro ?_ (And.intro ?_ ?_)) <;> decide
    · refine And.intro ?_ (And.intro ?_ (And.intro ?_ ?_)) <;> decide
  · have h : ∀ q : PortId, q ≠ 4 → inBurst.port q = Port.powerOn := by decide
    have e : ({ inBurst with pending := [.inboundWordTaken 4 5 false] } : State).port p = Port.powerOn := h p hp
    rw [e]
    exact law_of_no_current (by decide) (by decide) (by decide) (by decide)

theorem witness_OtherPortsUntouched :
    ReachesPort (.lookup 4) 4 ∧ (0 : PortId) ≠ 4 ∧ ∃ t, exec (.lookup 4) (after .grant crossing) = .next t :=
  ⟨.lookup 4, by decide, _, rfl⟩

end Sys2Proof.Tests
end

section
/-! POST (chapter 1): the record that the staging image spells, the checks of Table 1-3 one by one, and what an accepted POST
leaves at its port. -/

namespace Sys2Proof.Machine

/-! ### The staging image -/

theorem field_low (w : Word) (n : Nat) : field w 0 n = w.toNat % 2 ^ n := by simp [field]

theorem bits_eq_ofNat (w : Word) (lo n : Nat) : bits w lo n = BitVec.ofNat n (w.toNat / 2 ^ lo) := by
  apply BitVec.eq_of_toNat_eq
  simp [bits, BitVec.extractLsb'_toNat, Nat.shiftRight_eq_div_pow]

/-- An image of an undefined KIND spells no record, and only such an image (R1, R6). -/
theorem stagedRecord_eq_none_iff (w : HostWindow) :
    stagedRecord w = none ↔ w.stage0.toNat % 8 = 0 ∨ 6 ≤ w.stage0.toNat % 8 := by
  have hk : field w.stage0 0 3 = w.stage0.toNat % 8 := field_low _ 3
  have hlt : w.stage0.toNat % 8 < 8 := Nat.mod_lt _ (by decide)
  simp only [stagedRecord, Option.map_eq_none_iff, stagedWork, hk]
  generalize w.stage0.toNat % 8 = k at *
  interval_cases k <;> simp

/-- The fields of a MOVE image (Table 1-2). -/
theorem stagedWork_move {w : HostWindow} (hk : w.stage0.toNat % 8 = 1) :
    stagedWork w = some (.move (stagedDirection w) (w.stage1.toNat % 65536) w.stage2 (w.stage0.getLsbD 4)
      (w.stage0.getLsbD 5) (w.stage0.getLsbD 6 && stagedDirection w == .inbound)) := by
  simp [stagedWork, field_low, hk, flag]

/-- The fields of a FILL image (Table 1-2). -/
theorem stagedWork_fill {w : HostWindow} (hk : w.stage0.toNat % 8 = 2) :
    stagedWork w = some (.fill (w.stage1.toNat % 65536) w.stage3 (w.stage0.getLsbD 5)) := by
  simp [stagedWork, field_low, hk, flag]

/-- The fields of a DRAIN image (Table 1-2). -/
theorem stagedWork_drain {w : HostWindow} (hk : w.stage0.toNat % 8 = 3) :
    stagedWork w = some (.drain (w.stage1.toNat % 65536) (w.stage0.getLsbD 5) (w.stage0.getLsbD 6)) := by
  simp [stagedWork, field_low, hk, flag]

theorem stagedWork_mark {w : HostWindow} (hk : w.stage0.toNat % 8 = 4) : stagedWork w = some .mark := by
  simp [stagedWork, field_low, hk]

theorem stagedWork_patch {w : HostWindow} (hk : w.stage0.toNat % 8 = 5) : stagedWork w = some (.patch w.stage2) := by
  simp [stagedWork, field_low, hk]

/-- The record around the work that the image spells. -/
theorem stagedRecord_of_work {w : HostWindow} {work : Work} (h : stagedWork w = some work) :
    stagedRecord w = some ⟨work, w.stage0.getLsbD 7 || work == .mark, w.stage0.getLsbD 8,
      BitVec.ofNat 16 (w.stage0.toNat / 65536)⟩ := by
  simp [stagedRecord, h, flag, bits_eq_ofNat]

/-- Settles O9, KIND by KIND. -/
theorem stagedRecordKeepsFields : Obligations.StagedRecordKeepsFields := by
  unfold Obligations.StagedRecordKeepsFields
  intro w kind length always urgent cont tag
  refine ⟨fun hk hd => ?inboundMove, fun hk hd => ?outboundMove, fun hk => ?fill, fun hk => ?drain, fun hk => ?mark,
    fun hk => ?patch, (stagedRecord_eq_none_iff w).mpr⟩
  case inboundMove =>
    have hdir : stagedDirection w = .inbound := by simp only [stagedDirection, flag, hd, Bool.false_eq_true, if_false]
    simp [stagedRecord_of_work (stagedWork_move hk), hdir, always, length, urgent, cont, tag]
  case outboundMove =>
    have hdir : stagedDirection w = .outbound := by simp only [stagedDirection, flag, hd, if_true]
    simp [stagedRecord_of_work (stagedWork_move hk), hdir, always, length, urgent, cont, tag]
  case fill => simp [stagedRecord_of_work (stagedWork_fill hk), always, length, urgent, cont, tag]
  case drain => simp [stagedRecord_of_work (stagedWork_drain hk), always, length, urgent, cont, tag]
  case mark => simp [stagedRecord_of_work (stagedWork_mark hk), urgent, tag]
  case patch => simp [stagedRecord_of_work (stagedWork_patch hk), always, urgent, tag]

/-! ### The checks of Table 1-3 -/

theorem postReason_resetting {w : HostWindow} {P : Port} (n : Nat) (h : P.state = .resetting) :
    postReason w P n = .busy := by
  simp [postReason, h]

theorem postReason_badKind {w : HostWindow} {P : Port} (n : Nat) (h : P.state ≠ .resetting)
    (hr : stagedRecord w = none) : postReason w P n = .badKind := by
  simp [postReason, h, hr]

/-- Checks 4 to 6 come before those of the port. -/
theorem postReason_image {w : HostWindow} {P : Port} {r : Record} (n : Nat) (h : P.state ≠ .resetting)
    (hr : stagedRecord w = some r) (ha : r.work.imageReason ≠ .accepted) :
    postReason w P n = r.work.imageReason := by
  simp [postReason, h, hr, ha]

/-- Checks 7 and 8 come before those of the queue. -/
theorem postReason_permission {w : HostWindow} {P : Port} {r : Record} (n : Nat) (h : P.state ≠ .resetting)
    (hr : stagedRecord w = some r) (ha : r.Accepted) (hp : r.work.permissionReason P.config ≠ .accepted) :
    postReason w P n = r.work.permissionReason P.config := by
  have ha' : r.work.imageReason = .accepted := ha
  simp [postReason, h, hr, ha', hp]

/-- Checks 9 and 10, for a record that the port permits. -/
theorem postReason_tail {w : HostWindow} {P : Port} {r : Record} (n : Nat) (h : P.state ≠ .resetting)
    (hr : stagedRecord w = some r) (ha : r.Accepted) (hp : P.Permits r.work)
    (ht : r.work.tailReason P.tailOpen ≠ .accepted) : postReason w P n = r.work.tailReason P.tailOpen := by
  have ha' : r.work.imageReason = .accepted := ha
  simp [postReason, h, hr, ha', Work.permissionReason_of_permits hp, ht]

/-- Checks 11 and 12, for a record that the port's tail takes. -/
theorem postReason_room {w : HostWindow} {P : Port} {r : Record} (n : Nat) (h : P.state ≠ .resetting)
    (hr : stagedRecord w = some r) (ha : r.Accepted) (hp : P.Permits r.work) (ht : P.TailTakes r.work) :
    postReason w P n = if P.config.queueQuota ≤ P.queue.length then .quota else if 64 ≤ n then .poolEmpty
      else .accepted := by
  have ha' : r.work.imageReason = .accepted := ha
  simp [postReason, h, hr, ha', Work.permissionReason_of_permits hp, Work.tailReason_of_takes ht]

/-- A POST that a check refuses, from its command: RESULT alone changes, its value the queue length (R5). -/
theorem exec_post_refused {s : State} {port : BitVec 4} {p : PortId} (hp : port.toNat = p.val) (hs : s.Ready)
    {why : Reason} (h : postReason s.win (s.port p) s.occupied = why) (hw : why ≠ .accepted) :
    exec (.post port) s =
      .next { s with win := { s.win with result := ⟨1, why, (s.port p).queue.length⟩ } } :=
  congrArg Host.Outcome.next ((State.portCommand_ready hs hp 1 _).trans (State.post_refused h hw))

/-- A data image that does not pass the check of its length (R6). -/
theorem imageReason_of_length {w : HostWindow} {r : Record} (hr : stagedRecord w = some r)
    (h1 : 1 ≤ w.stage0.toNat % 8) (h3 : w.stage0.toNat % 8 ≤ 3)
    (hn : ¬(1 ≤ w.stage1.toNat % 65536 ∧ w.stage1.toNat % 65536 ≤ 16384)) : r.work.imageReason = .badLength := by
  have hn' : w.stage1.toNat % 65536 = 0 ∨ 16384 < w.stage1.toNat % 65536 := by omega
  obtain hk | hk | hk : w.stage0.toNat % 8 = 1 ∨ w.stage0.toNat % 8 = 2 ∨ w.stage0.toNat % 8 = 3 := by omega
  · obtain rfl := Option.some.inj ((stagedRecord_of_work (stagedWork_move hk)).symm.trans hr)
    simp [Work.imageReason, hn']
  · obtain rfl := Option.some.inj ((stagedRecord_of_work (stagedWork_fill hk)).symm.trans hr)
    simp [Work.imageReason, hn']
  · obtain rfl := Option.some.inj ((stagedRecord_of_work (stagedWork_drain hk)).symm.trans hr)
    simp [Work.imageReason, hn']

/-- Settles O10: the image's checks, each after those before it. -/
theorem postImageRefused : Obligations.PostImageRefused := by
  unfold Obligations.PostImageRefused
  intro port p s hp hs kind length address lengthFits refusedWith
  have refuse_image : (s.port p).state ≠ .resetting → ∀ {r : Record} {why : Reason},
      stagedRecord s.win = some r → r.work.imageReason = why → why ≠ .accepted → refusedWith why :=
    fun hst _ _ hr hi hw => exec_post_refused hp hs
      ((postReason_image _ hst hr (by rw [hi]; exact hw)).trans hi) hw
  refine ⟨fun hst => exec_post_refused hp hs (postReason_resetting _ hst) (by decide), fun hst =>
    ⟨fun hk => ?badKind, fun h1 h3 hn => ?badLength, fun hk hn ha => ?moveMisaligned, fun hk ha => ?patchMisaligned,
      fun hk hn ha hend => ?pastEnd⟩⟩
  case badKind =>
    exact exec_post_refused hp hs (postReason_badKind _ hst ((stagedRecord_eq_none_iff _).mpr hk)) (by decide)
  case badLength =>
    cases hr : stagedRecord s.win with
    | none => rcases (stagedRecord_eq_none_iff _).mp hr with h | h <;> simp only [kind] at h1 h3 <;> omega
    | some r => exact refuse_image hst hr (imageReason_of_length hr h1 h3 hn) (by decide)
  case moveMisaligned =>
    obtain ⟨h1, h2⟩ := hn
    refine refuse_image hst (stagedRecord_of_work (stagedWork_move hk)) ?_ (by decide)
    simp only [Work.imageReason]
    rw [if_neg (by simp only [length] at h1 h2; omega), if_pos ha]
  case patchMisaligned =>
    refine refuse_image hst (stagedRecord_of_work (stagedWork_patch hk)) ?_ (by decide)
    simp only [Work.imageReason]
    rw [if_pos ha]
  case pastEnd =>
    obtain ⟨h1, h2⟩ := hn
    refine refuse_image hst (stagedRecord_of_work (stagedWork_move hk)) ?_ (by decide)
    simp only [Work.imageReason]
    rw [if_neg (by simp only [length] at h1 h2; omega), if_neg (not_not.mpr ha),
      if_pos (by simp only [address, length] at hend; omega)]

/-- Settles O11: the port's checks, for an image that passed the earlier ones. -/
theorem postRefusedByPort : Obligations.PostRefusedByPort := by
  unfold Obligations.PostRefusedByPort
  intro port p s r hp hs hst hr ha P refusedWith
  refine ⟨fun hm hmap hcfg => ?unmapped, fun hw hcfg => ?patch, fun hpm => ⟨fun d hd ht => ?openMessage,
    fun d d' hd ht hne => ?direction, fun ht hq => ?quota⟩⟩
  case unmapped =>
    have hreason : r.work.permissionReason P.config = .unmappedDenied := by
      cases hwk : r.work <;> simp_all [Work.isMove, Work.mapped, Work.permissionReason]
    exact exec_post_refused hp hs
      ((postReason_permission _ hst hr ha (by rw [hreason]; decide)).trans hreason) (by decide)
  case patch =>
    have hreason : r.work.permissionReason P.config = .patchDenied := by
      rw [hw]; simp [Work.permissionReason, hcfg]
    exact exec_post_refused hp hs
      ((postReason_permission _ hst hr ha (by rw [hreason]; decide)).trans hreason) (by decide)
  case openMessage =>
    have hreason : r.work.tailReason P.tailOpen = .openMessage := by
      simp [Work.tailReason, Port.tailOpen_of_open ht, hd]
    exact exec_post_refused hp hs
      ((postReason_tail _ hst hr ha hpm (by rw [hreason]; decide)).trans hreason) (by decide)
  case direction =>
    have hreason : r.work.tailReason P.tailOpen = .directionMismatch := by
      simp [Work.tailReason, Port.tailOpen_of_open ht, hd, hne]
    exact exec_post_refused hp hs
      ((postReason_tail _ hst hr ha hpm (by rw [hreason]; decide)).trans hreason) (by decide)
  case quota =>
    exact exec_post_refused hp hs ((postReason_room _ hst hr ha hpm ht).trans (if_pos hq)) (by decide)

/-- Settles O12: the last check, for a POST that passes the earlier ones. -/
theorem postRefusedPoolEmpty : Obligations.PostRefusedPoolEmpty := by
  unfold Obligations.PostRefusedPoolEmpty
  intro port p s r hp hs hst hr ha hpm ht hq ho
  have hreason := postReason_room s.occupied hst hr ha hpm ht
  rw [if_neg (Nat.not_le.mpr hq), if_pos (Nat.le_of_eq ho.symm)] at hreason
  exact exec_post_refused hp hs hreason (by decide)

/-! ### Acceptance -/

/-- A POST that every check passes, from its command (R12, R22). -/
theorem exec_post_accepted {s : State} {port : BitVec 4} {p : PortId} {r : Record} (hp : port.toNat = p.val)
    (hs : s.Ready) (hst : (s.port p).state ≠ .resetting) (hr : stagedRecord s.win = some r) (ha : r.Accepted)
    (hpm : (s.port p).Permits r.work) (ht : (s.port p).TailTakes r.work)
    (hq : (s.port p).queue.length < (s.port p).config.queueQuota) (ho : s.occupied < 64) :
    exec (.post port) s =
      .next (((s.modPort p (Port.append r)).accept 1 ((s.port p).queue.length + 1)).serveIdle p) :=
  congrArg Host.Outcome.next ((State.portCommand_ready hs hp 1 _).trans
    (State.post_accepted (postReason_accepted hst hr ha hpm ht hq ho) hr))

/-- Settles O13: only an IDLE port examines its head. -/
theorem postAccepted : Obligations.PostAccepted := by
  unfold Obligations.PostAccepted
  intro port p s r hp hs hst hi hr ha hpm ht hq ho
  rw [exec_post_accepted hp hs hst hr ha hpm ht hq ho, State.serveIdle_of_not_idle (by simpa [Port.append] using hi)]
  rfl

/-- A PATCH head that comes to an IDLE port with RESYNC clear becomes current and raises its claim; nothing else begins (R23,
R131). -/
theorem State.serve_of_patch {s : State} {p : PortId} {r : Record} {a : Word} (hi : (s.port p).state = .idle)
    (hq : (s.port p).queue = [⟨r, .queued⟩]) (hw : r.work = .patch a) (hrs : (s.port p).resync = false) :
    s.serve p = (s.setPort p ((s.port p).claiming r [])).raiseClaim p a := by
  have hnone : ((s.port p).claiming r []).currentData = none := by
    simp [Port.currentData, Port.current, Port.claiming, hw, Work.isData, Work.dir]
  have hdis : ((s.port p).claiming r []).discards = false := by simp [Port.discards, Port.claiming, hrs]
  rw [State.serve, State.examine_of_patch hi hq hw, Port.takeUp_claiming hw, State.modPort_eq, State.raiseClaim_port,
    State.port_setPort_same, Port.settle_of_none hnone hdis]
  apply State.ext_ports <;> try rfl
  intro q
  by_cases hqp : q = p
  · subst hqp; simp
  · simp [hqp]

/-- Settles O14: the head examined is the queue's first with the posted record at its tail. -/
theorem postToIdlePort : Obligations.PostToIdlePort := by
  unfold Obligations.PostToIdlePort
  intro port p s r hp hs hi hr ha hpm ht hq ho P answers
  have hexec := exec_post_accepted hp hs (by rw [hi]; decide) hr ha hpm ht hq ho
  generalize hs' : (s.modPort p (Port.append r)).accept 1 ((s.port p).queue.length + 1) = s' at hexec
  have hport : s'.port p = { P with queue := P.queue ++ [⟨r, .queued⟩] } := by subst hs'; simp [Port.append, P]
  have hmap : s'.map = s.map := by subst hs'; rfl
  have hset : ∀ Q : Port, s'.setPort p Q = (s.setPort p Q).accept 1 (P.queue.length + 1) := fun Q => by
    subst hs'; simp [State.setPort, State.modPort, State.accept, P]
  have hi' : (s'.port p).state = .idle := by rw [hport]; exact hi
  rw [State.serveIdle_of_idle hi'] at hexec
  refine ⟨fun hf Q hQ => ?takesHead, fun a hempty hw hrs => ?patch⟩
  case takesHead =>
    have hleave : s'.map.leaveFence p = s'.map ∨ (s'.port p).skip = false := by
      rw [hport, hmap]
      exact hf.symm.imp_left fun h => by simp [MapUnit.leaveFence, h]
    have hserve : s'.serve p = s'.setPort p Q := State.serve_of_takesHead (by rw [hport]; exact hQ) hi' hleave
    exact hexec.trans (congrArg Host.Outcome.next (hserve.trans (hset Q)))
  case patch =>
    have hserve : s'.serve p = (s'.setPort p (P.claiming r [])).raiseClaim p a := by
      rw [State.serve_of_patch hi' (by rw [hport]; simp [hempty]) hw (by rw [hport]; exact hrs), hport]
      rfl
    rw [hserve] at hexec
    refine ⟨fun he => ?free, fun he => ?engaged⟩
    case free =>
      rw [State.raiseClaim_free p a (by simpa [hmap] using he), State.takeClaim_eq, hset,
        State.accept_port, State.port_setPort_same] at hexec
      exact hexec
    case engaged =>
      rw [State.raiseClaim_waits p a (by simpa [hmap] using he), hset] at hexec
      exact hexec

end Sys2Proof.Machine
end

section
/-! A sound state that a step leaves unsound. The law of a queue's chain (`Port.ChainLaw`) ties an ENDED head to the open
message by its CONTINUE alone and not by its direction, while POST reads the direction at the tail from the last record of
the queue (R9). So a BLOCKED port may hold one ENDED inbound record with CONTINUE set under a message open outbound; the port
takes an inbound record, which then heads the chain of a message open in the other direction. -/

namespace Sys2Proof.Machine

/-- An inbound record with CONTINUE set, ended and waiting for a report entry. -/
def strayedRecord : Record := ⟨.drain 1 true false, true, false, 0⟩

/-- A BLOCKED port that holds the ended inbound record while its open message is outbound. -/
def strayedPort : Port :=
  { Port.powerOn with
    state := .blocked, queue := [⟨strayedRecord, .ended⟩], msgOpen := true, msgDir := .outbound
    heldReport := some (.record 0 .done 0 1 false 0 false .absent) }

/-- The record that the staging image spells: an inbound one with CONTINUE clear. -/
def strayedPost : Record := ⟨.drain 1 false false, false, false, 0⟩

/-- Port 0 as above, the report queue full of announced entries, and a POST waiting. -/
def strayedState : State :=
  { State.reset.setPort 0 strayedPort with
    win := { HostWindow.powerOn with initBusy := false, stage0 := 3, stage1 := 1 }
    reports := { ReportQueue.powerOn with
      entries := List.replicate 32 ⟨.flushed 1 1, true⟩, blocked := [0] }
    pending := [.post 0] }

/-- A port right after power-on meets every law of a port. -/
theorem Port.law_powerOn : Port.powerOn.Law := by
  refine ⟨by decide, by decide, by decide, ?served, ?progress, by decide, by decide⟩
  case served => exact ⟨rfl, rfl, rfl, rfl, rfl, rfl, rfl⟩
  case progress => trivial

theorem strayedPort_law : strayedPort.Law := by
  refine ⟨by decide, by decide, by decide, ?served, ?progress, by decide, by decide⟩
  case served => exact ⟨rfl, rfl, rfl, rfl, rfl, rfl, rfl⟩
  case progress => trivial

theorem strayedState_port_of_ne {p : PortId} (hp : p ≠ 0) : strayedState.port p = Port.powerOn := by
  revert p
  decide

theorem strayedState_sound : strayedState.Sound := by
  refine ⟨fun p => ?_, by decide, by decide, by decide, by decide, by decide, by decide, by decide⟩
  by_cases hp : p = 0
  · subst hp; exact strayedPort_law
  · rw [strayedState_port_of_ne hp]; exact Port.law_powerOn

/-- The POST is accepted and joins the tail behind the ended record. -/
theorem step_strayedState :
    ∃ t, step strayedState = .next t ∧
      t.port 0 = { strayedPort with queue := [⟨strayedRecord, .ended⟩, ⟨strayedPost, .queued⟩] } := by
  let s : State := { strayedState with pending := [] }
  have htail : strayedPort.TailOpenIn .inbound := .inl ⟨⟨strayedRecord, .ended⟩, by decide, by decide, by decide⟩
  refine ⟨_, postAccepted 0 0 s strayedPost rfl ⟨rfl, rfl, rfl⟩ (by decide) (by decide) (by decide) (by decide)
    (by decide) (.inr ⟨.inbound, rfl, htail⟩) (by decide) (by decide), rfl⟩

/-- The chain now begins with an inbound record, and the open message is outbound. -/
theorem strayedPort_posted_breaks_chain :
    ¬ ({ strayedPort with queue := [⟨strayedRecord, .ended⟩, ⟨strayedPost, .queued⟩] } : Port).ChainLaw := by
  decide

/-- Refutes O59: the POST above leaves port 0 outside the law of its chain. -/
theorem not_soundKept : ¬ Obligations.SoundKept := by
  unfold Obligations.SoundKept
  intro h
  obtain ⟨t, hstep, hport⟩ := step_strayedState
  obtain ⟨hlaws, -⟩ := h strayedState t strayedState_sound hstep
  obtain ⟨-, -, hchain, -⟩ := hlaws 0
  rw [hport] at hchain
  exact strayedPort_posted_breaks_chain hchain

end Sys2Proof.Machine
end

section
/-! REGISTER_WRITE and the narrow accesses of the window (R162, Table 11-1). -/

namespace Sys2Proof.Machine

/-- A narrow write is discarded whole (R162). -/
theorem exec_registerWrite_narrow {s : State} (h : s.Live) (offset : BitVec 8) (v : Word) :
    exec (.registerWrite offset true v) s = .next s.ignoreWrite :=
  congrArg Host.Outcome.next (State.unlessReset_live h _)

/-- A 32-bit write of a register without a row of its own (R162). -/
theorem exec_registerWrite_plain {s : State} (h : s.Live) {offset : BitVec 8} {v : Word}
    (hrow : writeRow offset v = none) :
    exec (.registerWrite offset false v) s = .next (s.plainWrite offset v) :=
  congrArg Host.Outcome.next ((State.unlessReset_live h _).trans (by simp [hrow]))

/-- A narrow read answers 0 and does nothing else (R162). -/
theorem State.windowRead_narrow (s : State) (f : State → State) : s.windowRead true f = s.answerRead 0 := by
  simp [State.windowRead]

/-- MAPINDEX is taken outside the map initialisation for a value that names an entry (R112, R121). -/
theorem State.plainWrite_mapIndex (s : State) (v : Word) :
    s.plainWrite 0x38 v = if s.win.initBusy = true ∨ 1023 < v.toNat then s.ignoreWrite
      else { s with map := { s.map with mapIndex := v.toNat } } := by
  simp [State.plainWrite]

/-- Every offset but the nine plain registers is unlisted or read-only for a plain write. -/
theorem State.plainWrite_unlisted (s : State) {offset : BitVec 8} (v : Word)
    (h : offset ∉ [0x14, 0x18, 0x1C, 0x20, 0x38, 0x44, 0x48, 0x50, 0x54]) :
    s.plainWrite offset v = s.ignoreWrite := by
  have hne : ∀ n : Nat, n < 256 → BitVec.ofNat 8 n ∈ ([0x14, 0x18, 0x1C, 0x20, 0x38, 0x44, 0x48, 0x50, 0x54] :
      List (BitVec 8)) → offset.toNat ≠ n := fun n _ hm hn =>
    h (by rw [← hn, BitVec.ofNat_toNat, BitVec.setWidth_eq] at hm; exact hm)
  unfold State.plainWrite
  split
  case h_10 => rfl
  all_goals rename_i hn; exact absurd hn (hne _ (by decide) (by decide))

/-- Settles O35, register by register. -/
theorem registersWritten : Obligations.RegistersWritten := by
  unfold Obligations.RegistersWritten
  intro offset v s hs write ignored readsZero
  have plain : ∀ {o : BitVec 8} {t : State}, writeRow o v = none → s.plainWrite o v = t → write o t :=
    fun hrow ht => (exec_registerWrite_plain hs hrow).trans (congrArg _ ht)
  have read_zero : ∀ f : State → State, Host.Outcome.next (φ := Fault) (ρ := Refusal) (s.windowRead true f) =
      .next { s with win := { s.win with hostRead := 0 } } := fun f => congrArg _ (s.windowRead_narrow f)
  refine ⟨exec_registerWrite_narrow hs offset v, read_zero _, read_zero _, read_zero _, plain rfl rfl, plain rfl rfl,
    plain rfl rfl, plain rfl rfl, fun h => plain rfl ?_, fun hb hv => plain rfl ?_, plain rfl ?_, plain rfl rfl,
    plain rfl ?_, plain rfl ?_, fun hwf hoff => ?_⟩
  · rw [State.plainWrite_mapIndex, if_pos h]; rfl
  · rw [State.plainWrite_mapIndex, if_neg (by simp [hb, hv])]
  · simp [State.plainWrite, bits_eq_ofNat]
  · simp [State.plainWrite, bits_eq_ofNat]
  · simp [State.plainWrite, bits_eq_ofNat]
  · refine plain ?_ (s.plainWrite_unlisted v hoff)
    simpa [Instr.wellFormed, registerWriteTarget] using hwf

end Sys2Proof.Machine
end

section
/-! One port at a time (R16, R24): a command, a register write or an event of port `p` leaves the context of every other port
as it was. -/

namespace Sys2Proof.Machine

/-! ### The gates -/

theorem State.unlessReset_port_of {s : State} {f : State → State} {q : PortId} (h : (f s).port q = s.port q) :
    (s.unlessReset f).port q = s.port q := by
  unfold State.unlessReset
  split
  · rfl
  · exact h

theorem State.lineEvent_port_of {s : State} {p q : PortId} {level : Port → Port} {f : State → State} (hq : q ≠ p)
    (h : ∀ s' : State, (f s').port q = s'.port q) : (s.lineEvent p level f).port q = s.port q := by
  unfold State.lineEvent
  split
  · exact s.port_modPort_ne level hq
  · rw [h]; exact s.port_modPort_ne level hq

/-- A port command reaches the port that its field names, and no other (R24). -/
theorem State.portCommand_port_of {s : State} {op port : BitVec 4} {p q : PortId} {f : PortId → State → State}
    (hp : port.toNat = p.val) (h : (f p s).port q = s.port q) : (s.portCommand op port f).port q = s.port q := by
  unfold State.portCommand State.command
  refine State.unlessReset_port_of ?_
  split
  · rfl
  · simpa only [portOfField_of_lt hp] using h

/-! ### The operations of a port -/

theorem State.loadLatch_port_ne (s : State) {p q : PortId} (h : q ≠ p) (l : Latch) :
    (s.loadLatch p l).port q = s.port q := by
  rw [State.loadLatch_eq]
  simp [State.port_mk, h]

theorem State.resettingReleased_port_ne (s : State) {p q : PortId} (h : q ≠ p) :
    (s.resettingReleased p).port q = s.port q := by
  simp [State.resettingReleased, h]

theorem State.post_port_ne (s : State) {p q : PortId} (h : q ≠ p) : (s.post p).port q = s.port q := by
  unfold State.post
  split
  · simp [State.serveIdle_port_ne _ h, h]
  · rfl

theorem State.withdrawCurrent_port_ne (s : State) {p q : PortId} (h : q ≠ p) (r : Record) :
    (s.withdrawCurrent p r).port q = s.port q := by
  unfold State.withdrawCurrent
  split_ifs <;> simp [State.serve_port_ne _ h, State.recordEnd_port_ne _ h, h]

theorem State.withdraw_port_ne (s : State) {p q : PortId} (h : q ≠ p) (tag : BitVec 16) :
    (s.withdraw p tag).port q = s.port q := by
  unfold State.withdraw
  repeat' split
  all_goals simp [State.withdrawCurrent_port_ne _ h, State.serveIdle_port_ne _ h, h]

theorem State.enablePort_port_ne (s : State) {p q : PortId} (h : q ≠ p) : (s.enablePort p).port q = s.port q := by
  unfold State.enablePort
  split <;> simp [State.serve_port_ne _ h, h]

theorem State.disablePort_port_ne (s : State) {p q : PortId} (h : q ≠ p) : (s.disablePort p).port q = s.port q := by
  unfold State.disablePort
  split <;> simp [h]

theorem State.pausePort_port_ne (s : State) {p q : PortId} (h : q ≠ p) : (s.pausePort p).port q = s.port q := by
  unfold State.pausePort
  repeat' split
  all_goals simp [h]

theorem State.resumeHeld_port_ne (s : State) {p q : PortId} (h : q ≠ p) (r : Record) :
    (s.resumeHeld p r).port q = s.port q := by
  unfold State.resumeHeld
  split <;> simp [h]

theorem State.resumePort_port_ne (s : State) {p q : PortId} (h : q ≠ p) (op : BitVec 4) (halted : Port → Port) :
    (s.resumePort op halted p).port q = s.port q := by
  unfold State.resumePort
  repeat' split
  all_goals simp [State.serve_port_ne _ h, State.resumeHeld_port_ne _ h, h]

theorem State.postFlushed_port (s : State) (p : PortId) (n : Nat) (q : PortId) :
    (s.postFlushed p n).port q = s.port q := by
  unfold State.postFlushed
  split <;> rfl

theorem State.flushPort_port_ne (s : State) {p q : PortId} (h : q ≠ p) : (s.flushPort p).port q = s.port q := by
  unfold State.flushPort State.flushTaken
  repeat' split
  all_goals simp [State.serve_port_ne _ h, State.postFlushed_port, h]

theorem State.resetPort_port_ne (s : State) {p q : PortId} (h : q ≠ p) : (s.resetPort p).port q = s.port q := by
  unfold State.resetPort
  split <;> simp [State.port_mk, h]

theorem State.hostPatch_port (s : State) (p q : PortId) : (s.hostPatch p).port q = s.port q := by
  unfold State.hostPatch
  split_ifs <;> simp

theorem State.deliver_port_ne (s : State) {p q : PortId} (h : q ≠ p) (w : Work) (v : Word) :
    (s.deliver p w v).port q = s.port q := by
  unfold State.deliver
  split_ifs
  · rfl
  · simp [State.serve_port_ne _ h, State.afterDelivery_port_ne _ h, h]

theorem State.afterSending_port_ne (s : State) {p q : PortId} (h : q ≠ p) (w : Work) :
    (s.afterSending p w).port q = s.port q := by
  simp only [State.afterSending]
  split_ifs
  · exact State.transferEnd_port_ne s h
  · rfl
  · exact State.wantWord_port_ne s h

theorem State.confirmed_port_ne (s : State) {p q : PortId} (h : q ≠ p) (w : Work) :
    (s.confirmed p w).port q = s.port q := by
  simp only [State.confirmed]
  split_ifs <;> simp [State.endHere_port_ne _ h, State.burstOver_port_ne _ h, h]

theorem State.lookup_port_ne (s : State) {p q : PortId} (h : q ≠ p) (w : Work) (dir : Direction) :
    (s.lookup p w dir).port q = s.port q := by
  simp only [State.lookup, State.lookupFaulted, State.lookupPassed]
  repeat' split
  all_goals simp [State.serve_port_ne _ h, State.endHere_port_ne _ h, State.translated_port_ne _ h,
    State.loadLatch_port_ne _ h, State.port_mk, h]

/-! ### The commands -/

/-- A COMMAND write leaves every port alone but the one that it names (R24). -/
theorem exec_namesPort_port_ne {c : Instr} {op port : BitVec 4} {p q : PortId} {s t : State}
    (hc : NamesPort c op port) (hp : port.toNat = p.val) (hq : q ≠ p) (h : exec c s = .next t) :
    t.port q = s.port q := by
  cases hc <;> obtain rfl := Host.Outcome.next.inj h <;> refine State.portCommand_port_of hp ?_
  case post => exact s.post_port_ne hq
  case withdraw tag => exact s.withdraw_port_ne hq tag
  case enable => exact s.enablePort_port_ne hq
  case disable => exact s.disablePort_port_ne hq
  case pause => exact s.pausePort_port_ne hq
  case resumeRecord => exact s.resumePort_port_ne hq 6 id
  case resumeMessage => exact s.resumePort_port_ne hq 7 Port.skipMessage
  case flush => exact s.flushPort_port_ne hq
  case portReset => exact s.resetPort_port_ne hq
  case patch => exact s.hostPatch_port p q

/-- Settles O60, command by command. -/
theorem otherPortsUntouched : Obligations.OtherPortsUntouched := by
  unfold Obligations.OtherPortsUntouched
  intro c p q s t hc hq h
  cases hc
  case command op port hn hp => exact exec_namesPort_port_ne hn hp hq h
  all_goals obtain rfl := Host.Outcome.next.inj h
  case attach =>
    exact State.lineEvent_port_of hq fun s' => by simp [State.serveIdle_port_ne _ hq, hq]
  case detach =>
    exact State.lineEvent_port_of hq fun s' => by simp [State.cutRecord_port_ne _ hq, hq]
  case rdyRise => exact State.lineEvent_port_of hq fun s' => s'.port_modPort_ne _ hq
  case rdyFall =>
    refine State.lineEvent_port_of hq fun s' => ?_
    split
    · rw [State.serve_port_ne _ hq, State.transferEnd_port_ne _ hq]
    · rfl
  all_goals refine State.unlessReset_port_of ?_
  case portStatusClear v => exact s.port_modPort_ne _ hq
  case flt => exact s.cutRecord_port_ne hq _ _
  all_goals repeat' split
  all_goals simp [State.serve_port_ne _ hq, State.confirmed_port_ne _ hq, State.repeatBurst_port_ne _ hq,
    State.deliver_port_ne _ hq, State.afterSending_port_ne _ hq, State.lookup_port_ne _ hq,
    State.resettingReleased_port_ne _ hq, State.endHere_port_ne _ hq, hq]

end Sys2Proof.Machine
end

section
/-! What a step can do to the queues of the ports, to their states and to the report queue, said once: every command is a
chain of the elementary changes of `State.Change`. A law of the queues or of the report queue is kept by every step if each
of these changes keeps it. -/

namespace Sys2Proof.Machine

/-! ### Elementary changes -/

/-- A context with the same queue, state and held report. -/
abbrev Port.SameDuty (P Q : Port) : Prop := Q.queue = P.queue ∧ Q.state = P.state ∧ Q.heldReport = P.heldReport

/-- A report queue with the same blocked list and as many entries, its law kept. -/
abbrev ReportQueue.SameRoom (q q' : ReportQueue) : Prop :=
  q'.blocked = q.blocked ∧ q'.entries.length = q.entries.length ∧ (q.Law → q'.Law)

/-- A context with no record and no held report, as the resets leave it (R37, R43). -/
abbrev Port.Cleared (P : Port) : Prop :=
  P.queue = [] ∧ (P.state = .disabled ∨ P.state = .resetting) ∧ P.heldReport = none

/-- The states that a port can turn to with its queue as it stands (Table 2-4, R38, R40). -/
inductive Port.Turns (P : Port) : PortState → Prop where
  | rests {st : PortState} (h : P.state = .disabled ∨ P.state = .idle ∨ P.state = .halted)
      (hst : st = .disabled ∨ st = .idle ∨ st = .paused) : Turns P st
  | pauses (h : P.state = .running ∨ P.current.isSome = true) : Turns P .paused
  | resumes (h : P.state = .paused) (hc : P.current.isSome = true) : Turns P .running
  | returns (h : P.state = .paused) (hc : P.current = none) : Turns P .idle
  | released (h : P.state = .resetting) : Turns P .disabled

/-- One elementary change of the queues, the states and the report queue. -/
inductive State.Change : State → State → Prop where
  /-- No queue, no state and no held report changes, and the report queue keeps its room. -/
  | quiet {s t : State} (hports : ∀ q, (s.port q).SameDuty (t.port q)) (hroom : s.reports.SameRoom t.reports) : Change s t
  /-- A port turns to another state. -/
  | turns {s : State} {p : PortId} {P : Port} (hqueue : P.queue = (s.port p).queue)
      (hheld : P.heldReport = (s.port p).heldReport) (hstate : (s.port p).Turns P.state) : Change s (s.setPort p P)
  /-- The head of an IDLE port becomes current (R22). -/
  | takesUp {s : State} {p : PortId} {slot : Slot} {rest : List Slot} (hidle : (s.port p).state = .idle)
      (hqueue : (s.port p).queue = slot :: rest) : Change s (s.setPort p ((s.port p).takeUp slot.record rest))
  /-- A current record retires (R61, R62). -/
  | retires {s : State} {p : PortId} (hcurrent : (s.port p).current.isSome = true) (st : Status) (needed : Bool)
      (rep : Report) : Change s (s.retire p st needed rep)
  /-- A record joins the tail of a queue while the pool has a free slot (R11, R12). -/
  | joins {s : State} {p : PortId} (r : Record) (hstate : (s.port p).state ≠ .resetting) (hroom : s.occupied < 64) :
      Change s (s.modPort p (Port.append r))
  /-- A queued record is removed (R34). -/
  | leaves {s : State} {p : PortId} {i : Nat} {slot : Slot} (hslot : (s.port p).queue[i]? = some slot)
      (hstage : slot.stage = .queued) : Change s (s.modPort p fun P => { P with queue := P.queue.eraseIdx i })
  /-- The records of a port that serves none are dropped (R32). -/
  | flushes {s : State} {p : PortId} {P : Port} (hqueue : P.queue = []) (hstate : P.state = (s.port p).state)
      (hrests : P.state ≠ .running ∧ P.state ≠ .blocked) (hheld : P.heldReport = (s.port p).heldReport) :
      Change s (s.setPort p P)
  /-- A report is posted with a free entry (R142). -/
  | posts {s : State} (rep : Report) (hfree : s.reports.full = false) :
      Change s { s with reports := s.reports.post rep }
  /-- A port is reset and leaves the blocked list (R37). -/
  | resets {s : State} {p : PortId} {P : Port} (hclear : P.Cleared) :
      Change s { s.setPort p P with
        reports := { s.reports with blocked := s.reports.blocked.filter fun q => q != p } }
  /-- Every port is reset, and the report queue with them (R167, R168). -/
  | restarts {s t : State} (hclear : ∀ q, (t.port q).Cleared) (hreports : t.reports = .powerOn) : Change s t
  /-- The head of the report queue is taken, and no port waits for its entry (R145). -/
  | pops {s : State} (hblocked : s.reports.blocked = []) : Change s { s with reports := s.reports.removeHead }
  /-- The head of the report queue is taken, and the first BLOCKED port's report has its entry (R145, R146). -/
  | admits {s : State} {p : PortId} {rest : List PortId} {rep : Report}
      (hblocked : s.reports.blocked = p :: rest) (hheld : (s.port p).heldReport = some rep) :
      Change s ({ s with reports := ({ s.reports.removeHead with blocked := rest } : ReportQueue).post rep }.modPort p
        (Port.completeRetirement rep.status))
  /-- The first port of the blocked list holds no report. The laws exclude it. -/
  | strays {s : State} {p : PortId} {rest : List PortId} (hblocked : s.reports.blocked = p :: rest)
      (hheld : (s.port p).heldReport = none) :
      Change s { s with reports := { s.reports.removeHead with blocked := rest } }

/-- A chain of elementary changes. -/
def State.Becomes (s t : State) : Prop := Relation.ReflTransGen State.Change s t

/-! ### Chains -/

theorem ReportQueue.SameRoom.refl (q : ReportQueue) : q.SameRoom q := ⟨rfl, rfl, id⟩

theorem State.Change.becomes {s t : State} (h : s.Change t) : s.Becomes t := Relation.ReflTransGen.single h

theorem State.becomes_refl (s : State) : s.Becomes s := Relation.ReflTransGen.refl

theorem State.Becomes.trans {s t u : State} (h : s.Becomes t) (h' : t.Becomes u) : s.Becomes u :=
  Relation.ReflTransGen.trans h h'

/-- What every elementary change keeps, a chain of them keeps. -/
theorem State.Becomes.keeps {I : State → Prop} (hI : ∀ {s t : State}, s.Change t → I s → I t) {s t : State}
    (h : s.Becomes t) (hs : I s) : I t := by
  induction h with
  | refl => exact hs
  | tail _ hchange ih => exact hI hchange ih

/-- The ports and the report queue are as they were. -/
theorem State.becomes_of_same {s t : State} (hports : ∀ q, t.port q = s.port q) (hreports : t.reports = s.reports) :
    s.Becomes t := by
  refine (State.Change.quiet (fun q => ?_) ?_).becomes
  · rw [hports]; exact ⟨rfl, rfl, rfl⟩
  · rw [hreports]; exact .refl _

/-- The report queue changes within its room. -/
theorem State.becomes_of_sameRoom {s t : State} (hports : ∀ q, t.port q = s.port q)
    (hroom : s.reports.SameRoom t.reports) : s.Becomes t := by
  refine (State.Change.quiet (fun q => ?_) hroom).becomes
  rw [hports]; exact ⟨rfl, rfl, rfl⟩

/-- A port's context changes, but not its queue, its state or its held report. -/
theorem State.becomes_modPort (s : State) (p : PortId) {f : Port → Port} (h : (s.port p).SameDuty (f (s.port p))) :
    s.Becomes (s.modPort p f) := by
  refine State.Change.becomes (.quiet (fun q => ?_) (.refl _))
  by_cases hq : q = p
  · subst hq; rw [State.port_modPort_same]; exact h
  · rw [State.port_modPort_ne _ _ hq]; exact ⟨rfl, rfl, rfl⟩

/-- A port turns to another state with its queue as it stands. -/
theorem State.becomes_turned (s : State) (p : PortId) {f : Port → Port} {st : PortState} (ht : (s.port p).Turns st)
    (hqueue : (f (s.port p)).queue = (s.port p).queue) (hheld : (f (s.port p)).heldReport = (s.port p).heldReport)
    (hst : (f (s.port p)).state = st) : s.Becomes (s.modPort p f) :=
  State.Change.becomes (.turns hqueue hheld (hst ▸ ht))

theorem State.becomes_mapPorts (s : State) {f : PortId → Port → Port} (h : ∀ q, (s.port q).SameDuty (f q (s.port q))) :
    s.Becomes (s.mapPorts f) :=
  State.Change.becomes (.quiet (fun q => by rw [State.port_mapPorts]; exact h q) (.refl _))

/-- A chain goes on with blocks that are neither a port nor the report queue. -/
theorem State.Becomes.same {s t u : State} (h : s.Becomes t) (hports : ∀ q, u.port q = t.port q)
    (hreports : u.reports = t.reports) : s.Becomes u := h.trans (State.becomes_of_same hports hreports)

theorem State.Becomes.accept {s t : State} (h : s.Becomes t) (op : BitVec 4) (v : Nat) : s.Becomes (t.accept op v) :=
  h.same (fun _ => rfl) rfl

theorem State.becomes_withMap (s : State) (m : MapUnit) : s.Becomes { s with map := m } :=
  s.becomes_refl.same (fun _ => rfl) rfl

theorem State.becomes_withArbiter (s : State) (a : Arbiter) : s.Becomes { s with arbiter := a } :=
  s.becomes_refl.same (fun _ => rfl) rfl

theorem State.becomes_withAccess (s : State) (a : Option Access) : s.Becomes { s with access := a } :=
  s.becomes_refl.same (fun _ => rfl) rfl

theorem State.becomes_refuse (s : State) (op : BitVec 4) (why : Reason) (v : Nat) : s.Becomes (s.refuse op why v) :=
  s.becomes_refl.same (fun _ => rfl) rfl

theorem State.becomes_ignoreWrite (s : State) : s.Becomes s.ignoreWrite := s.becomes_refl.same (fun _ => rfl) rfl

theorem State.becomes_answerRead (s : State) (w : Word) : s.Becomes (s.answerRead w) :=
  s.becomes_refl.same (fun _ => rfl) rfl

theorem State.becomes_release (s : State) : s.Becomes s.release := s.becomes_refl.same (fun _ => rfl) rfl

theorem State.becomes_releaseBy (s : State) (p : PortId) : s.Becomes (s.releaseBy p) :=
  s.becomes_refl.same (s.releaseBy_port p) (s.releaseBy_reports p)

theorem State.becomes_dropLatch (s : State) (p : PortId) : s.Becomes (s.dropLatch p) :=
  (s.becomes_modPort p ⟨rfl, rfl, rfl⟩).same (fun _ => rfl) rfl

theorem State.becomes_loadLatch (s : State) (p : PortId) (l : Latch) : s.Becomes (s.loadLatch p l) :=
  (s.becomes_modPort p ⟨rfl, rfl, rfl⟩).same (fun _ => rfl) rfl

theorem State.becomes_raiseClaim (s : State) (p : PortId) (a : Word) : s.Becomes (s.raiseClaim p a) :=
  s.becomes_refl.same (s.raiseClaim_port p a) (s.raiseClaim_reports p a)

/-! ### Records that end -/

/-- The effects of a record end on the message leave the queue and the state alone (R59 step 2). -/
theorem Port.sameDuty_messageEffects (P : Port) (w : Work) (st : Status) : P.SameDuty (P.messageEffects w st) := by
  have hrepair : P.SameDuty (P.repairLines st) := by
    unfold Port.repairLines
    repeat' split
    all_goals exact ⟨rfl, rfl, rfl⟩
  have hfirst : P.SameDuty (if st.cutsMessage then P.repairLines st else if st = .overrun then { P with resync := true }
      else P) := by
    split_ifs
    · exact hrepair
    · exact ⟨rfl, rfl, rfl⟩
    · exact ⟨rfl, rfl, rfl⟩
  unfold Port.messageEffects
  generalize (if st.cutsMessage then P.repairLines st else if st = .overrun then { P with resync := true } else P) = P1
    at hfirst
  dsimp only
  split_ifs <;> exact hfirst

theorem Port.sameDuty_endEffects (P : Port) (r : Record) (st : Status) : P.SameDuty (P.endBurst.endEffects r st) := by
  unfold Port.endEffects
  split
  · exact Port.sameDuty_messageEffects _ _ _
  · exact ⟨rfl, rfl, rfl⟩

theorem Port.SameDuty.current_eq {P Q : Port} (h : P.SameDuty Q) : Q.current = P.current := by
  obtain ⟨hq, -, -⟩ := h
  simp only [Port.current, hq]

theorem Port.current_isSome_of_currentData {P : Port} {w : Work} (h : P.currentData = some w) :
    P.current.isSome = true := by
  unfold Port.currentData at h
  split at h
  · rename_i hc; simp [hc]
  · exact absurd h (by simp)

theorem State.becomes_recordEnd (s : State) (p : PortId) (st : Status) (d : Detail) : s.Becomes (s.recordEnd p st d) := by
  cases hc : (s.port p).current with
  | none => simpa only [State.recordEnd, hc] using s.becomes_refl
  | some r =>
    rw [State.recordEnd_eq hc]
    have hduty := Port.sameDuty_endEffects ((s.port p).setLatch none) r st
    refine ((s.becomes_dropLatch p).trans ((s.dropLatch p).becomes_modPort p ?_)).trans
      (State.Change.retires ?_ _ _ _).becomes
    · rw [State.dropLatch_port_same]; exact hduty
    · rw [State.port_modPort_same, State.dropLatch_port_same, hduty.current_eq]
      show (s.port p).current.isSome = true
      rw [hc]; rfl

theorem State.becomes_endHere (s : State) (p : PortId) (st : Status) (d : Detail) : s.Becomes (s.endHere p st d) :=
  (s.becomes_releaseBy p).trans (State.becomes_recordEnd _ p st d)

/-! ### Heads that become current -/

theorem State.becomes_examineFuel (n : Nat) (p : PortId) (s : State) : s.Becomes (State.examineFuel n p s) := by
  induction n generalizing s with
  | zero => exact s.becomes_refl
  | succ n ih =>
    unfold State.examineFuel
    split
    next hi =>
      split
      next => exact s.becomes_refl
      next slot rest hq =>
        have htake : s.Becomes (s.setPort p ((s.port p).takeUp slot.record rest)) := (State.Change.takesUp hi hq).becomes
        split
        next =>
          dsimp only
          split
          next st _ => exact (htake.trans (State.becomes_recordEnd _ p st .absent)).trans (ih _)
          next =>
            split
            next a _ => exact htake.trans (State.becomes_raiseClaim _ p a)
            all_goals exact htake
        next => exact s.becomes_refl
    next => exact s.becomes_refl

theorem Port.sameDuty_settle (P : Port) : P.SameDuty P.settle := by
  rw [Port.settle_keeps]
  exact ⟨rfl, rfl, rfl⟩

theorem State.becomes_serve (s : State) (p : PortId) : s.Becomes (s.serve p) :=
  (State.becomes_examineFuel _ p s).trans (State.becomes_modPort _ p (Port.sameDuty_settle _))

theorem State.Becomes.serve {s t : State} (h : s.Becomes t) (p : PortId) : s.Becomes (t.serve p) :=
  h.trans (t.becomes_serve p)

theorem State.becomes_serveIdle (s : State) (p : PortId) : s.Becomes (s.serveIdle p) := by
  unfold State.serveIdle
  split
  · exact s.becomes_serve p
  · exact s.becomes_refl

/-! ### Bursts -/

/-- A burst that is over ends its record, holds it or goes back to WAITING (R40). -/
theorem State.becomes_burstOver {s : State} {p : PortId} (hc : (s.port p).current.isSome = true) :
    s.Becomes (s.burstOver p) := by
  have hwait : s.Becomes (s.modPort p fun P =>
      { P with phase := .waiting, inHand := none, lookupRequest := false, cut := none }) :=
    s.becomes_modPort p ⟨rfl, rfl, rfl⟩
  unfold State.burstOver
  dsimp only
  split_ifs
  · exact hwait.trans (State.becomes_recordEnd _ p .aborted .absent)
  · refine hwait.trans (State.becomes_turned _ p (.pauses (.inr ?_)) rfl rfl rfl)
    rw [State.port_modPort_same]; exact hc
  · exact hwait

theorem State.becomes_transferEnd (s : State) (p : PortId) : s.Becomes (s.transferEnd p) := by
  unfold State.transferEnd
  split
  next => exact s.becomes_refl
  next w hw =>
    split
    · exact (s.becomes_releaseBy p).trans (State.becomes_modPort _ p ⟨rfl, rfl, rfl⟩)
    · refine (s.becomes_releaseBy p).trans (State.becomes_burstOver ?_)
      rw [State.releaseBy_port]; exact Port.current_isSome_of_currentData hw

theorem State.becomes_wantWord (s : State) (p : PortId) : s.Becomes (s.wantWord p) := by
  unfold State.wantWord
  split
  · exact s.becomes_refl
  · exact s.becomes_transferEnd p

theorem State.becomes_translated (s : State) (p : PortId) (w : Work) : s.Becomes (s.translated p w) := by
  unfold State.translated
  split
  · exact s.becomes_refl.same (fun _ => rfl) rfl
  · exact s.becomes_wantWord p

theorem State.becomes_afterDelivery (s : State) (p : PortId) (w : Work) : s.Becomes (s.afterDelivery p w) := by
  unfold State.afterDelivery
  dsimp only
  split_ifs
  · exact s.becomes_endHere p _ .absent
  · exact s.becomes_transferEnd p
  · exact s.becomes_wantWord p

/-- A repeat rewinds the burst or ends the record REPEAT LIMIT (R76). -/
theorem State.becomes_repeatBurst {s : State} {p : PortId} (hc : (s.port p).current.isSome = true) (w : Work) :
    s.Becomes (s.repeatBurst p w) := by
  have hrefused : ∀ Q : Port, Q.SameDuty (if Q.burstCarriedEnd w then { Q with endPassed := false } else Q) := fun Q => by
    split <;> exact ⟨rfl, rfl, rfl⟩
  unfold State.repeatBurst
  dsimp only
  split_ifs
  · refine ((s.becomes_releaseBy p).trans (State.becomes_modPort _ p ?rewound)).trans (State.becomes_burstOver ?held)
    case rewound => exact hrefused _
    case held =>
      rw [State.port_modPort_same, State.releaseBy_port]
      rw [← (hrefused (s.port p)).current_eq] at hc
      exact hc
  · exact (s.becomes_modPort p (hrefused _)).trans (State.becomes_endHere _ p _ _)

theorem State.becomes_cutRecord (s : State) (p : PortId) (c : Cut) (st : Status) : s.Becomes (s.cutRecord p c st) := by
  unfold State.cutRecord
  dsimp only
  split_ifs
  · exact s.becomes_refl
  · exact s.becomes_refl
  · exact s.becomes_modPort p ⟨rfl, rfl, rfl⟩
  · exact (s.becomes_endHere p st .absent).serve p

end Sys2Proof.Machine
end

section
/-! Every step is a chain of the elementary changes of `State.Change`: the gates of the window, the operations of the commands
and events, and one case for each command. -/

namespace Sys2Proof.Machine

/-! ### The gates -/

theorem State.becomes_unlessReset {s : State} {f : State → State} (h : s.Becomes (f s)) : s.Becomes (s.unlessReset f) := by
  unfold State.unlessReset
  split
  · exact s.becomes_refl
  · exact h

theorem State.becomes_command {s : State} {op : BitVec 4} {f : State → State} (h : s.Becomes (f s)) :
    s.Becomes (s.command op f) := by
  refine State.becomes_unlessReset ?_
  split
  · exact s.becomes_refuse op .busy 0
  · exact h

theorem State.becomes_portCommand {s : State} {op port : BitVec 4} {f : PortId → State → State}
    (h : ∀ p, s.Becomes (f p s)) : s.Becomes (s.portCommand op port f) := by
  refine State.becomes_command ?_
  split
  · exact s.becomes_refuse op .badPort 0
  · exact h _

theorem State.becomes_windowRead {s : State} {narrow : Bool} {f : State → State} (h : s.Becomes (f s)) :
    s.Becomes (s.windowRead narrow f) := by
  unfold State.windowRead
  split
  · exact s.becomes_answerRead 0
  · exact h

theorem State.becomes_lineEvent {s : State} {p : PortId} {level : Port → Port} {f : State → State}
    (hlevel : ∀ P : Port, P.SameDuty (level P)) (h : ∀ t : State, t.Becomes (f t)) :
    s.Becomes (s.lineEvent p level f) := by
  have hl : s.Becomes (s.modPort p level) := s.becomes_modPort p (hlevel _)
  unfold State.lineEvent
  split
  · exact hl
  · exact hl.trans (h _)

/-! ### POST and the port commands -/

/-- A POST is accepted only at a port that is not RESETTING and while the pool has a free slot (R11, checks 2 and 12). -/
theorem room_of_postReason {w : HostWindow} {P : Port} {n : Nat} (h : postReason w P n = .accepted) :
    P.state ≠ .resetting ∧ n < 64 := by
  have hst : P.state ≠ .resetting := fun hst => by
    rw [postReason_resetting n hst] at h
    exact absurd h (by decide)
  refine ⟨hst, ?_⟩
  by_contra hn
  unfold postReason at h
  rw [if_pos (Nat.le_of_not_lt hn), if_neg hst] at h
  split at h
  · exact absurd h (by decide)
  · split_ifs at h with hi hp ht
    exacts [hi h, hp h, ht h]

theorem State.becomes_post (s : State) (p : PortId) : s.Becomes (s.post p) := by
  unfold State.post
  split
  next r hreason _ =>
    obtain ⟨hst, hroom⟩ := room_of_postReason hreason
    have hjoin : s.Becomes (s.modPort p (Port.append r)) := (State.Change.joins r hst hroom).becomes
    exact (hjoin.accept 1 _).trans (State.becomes_serveIdle _ p)
  next => exact s.becomes_refuse 1 _ _

theorem State.becomes_withdrawCurrent (s : State) (p : PortId) (r : Record) : s.Becomes (s.withdrawCurrent p r) := by
  have hend : ∀ t : State, s.Becomes t → s.Becomes (((t.recordEnd p .aborted .absent).accept 2 9).serve p) := fun t h =>
    ((h.trans (t.becomes_recordEnd p .aborted .absent)).accept 2 9).serve p
  unfold State.withdrawCurrent
  split_ifs
  · exact (s.becomes_modPort p ⟨rfl, rfl, rfl⟩).accept 2 10
  · exact hend s s.becomes_refl
  · exact s.becomes_refuse 2 .busy _
  · exact hend _ (s.becomes_refl.same (fun _ => rfl) rfl)

/-- A record that WITHDRAW chooses has not ended (R34). -/
theorem stage_of_findIdx_chosenBy {queue : List Slot} {tag : BitVec 16} {i : Nat} {slot : Slot}
    (hi : queue.findIdx? (Slot.chosenBy tag) = some i) (hslot : queue[i]? = some slot) (hstage : slot.stage ≠ .current) :
    slot.stage = .queued := by
  obtain ⟨hlt, hchosen, -⟩ := List.findIdx?_eq_some_iff_getElem.mp hi
  obtain ⟨_, hget⟩ := List.getElem?_eq_some_iff.mp hslot
  rw [hget] at hchosen
  cases h : slot.stage with
  | queued => rfl
  | current => exact absurd h hstage
  | ended => simp [Slot.chosenBy, h] at hchosen

theorem State.becomes_withdraw (s : State) (p : PortId) (tag : BitVec 16) : s.Becomes (s.withdraw p tag) := by
  unfold State.withdraw
  split
  next => exact s.becomes_refuse 2 .busy _
  next =>
    split
    next => exact s.becomes_refuse 2 .noMatch _
    next i hi =>
      split
      next => exact s.becomes_refuse 2 .noMatch _
      next slot hslot =>
        split_ifs with hcur hrefused
        · exact s.becomes_withdrawCurrent p slot.record
        · exact s.becomes_refuse 2 .openMessage _
        · have hleave := State.Change.leaves hslot (stage_of_findIdx_chosenBy hi hslot hcur)
          exact (hleave.becomes.accept 2 8).trans (State.becomes_serveIdle _ p)

theorem State.becomes_enablePort (s : State) (p : PortId) : s.Becomes (s.enablePort p) := by
  unfold State.enablePort
  split
  next hst =>
    exact ((s.becomes_turned p (.rests (.inl hst) (.inr (.inl rfl))) rfl rfl rfl).accept 3 _).serve p
  all_goals exact s.becomes_refuse 3 _ _

theorem State.becomes_disablePort (s : State) (p : PortId) : s.Becomes (s.disablePort p) := by
  have hrest : (s.port p).state = .disabled ∨ (s.port p).state = .idle ∨ (s.port p).state = .halted →
      s.Becomes ((s.modPort p fun P => { P with state := .disabled }).accept 4 PortState.disabled.code) := fun h =>
    (s.becomes_turned p (.rests h (.inl rfl)) rfl rfl rfl).accept 4 _
  unfold State.disablePort
  split
  next hst => exact hrest (.inl hst)
  next hst => exact hrest (.inr (.inl hst))
  next hst => exact hrest (.inr (.inr hst))
  all_goals exact s.becomes_refuse 4 .busy _

theorem State.becomes_pausePort (s : State) (p : PortId) : s.Becomes (s.pausePort p) := by
  have hpend : s.Becomes ((s.modPort p fun P => { P with pausePending := true }).accept 5 7) :=
    (s.becomes_modPort p ⟨rfl, rfl, rfl⟩).accept 5 7
  have hclaim : s.Becomes (s.withdrawClaim p) := s.becomes_refl.same (fun _ => rfl) rfl
  unfold State.pausePort
  split
  next hst => exact (s.becomes_turned p (.rests (.inr (.inl hst)) (.inr (.inr rfl))) rfl rfl rfl).accept 5 _
  next hst =>
    split
    · exact hpend
    · exact (hclaim.trans (State.becomes_turned _ p (.pauses (.inl hst)) rfl rfl rfl)).accept 5 _
  next => exact hpend
  next => exact s.becomes_refl.accept 5 _
  all_goals exact s.becomes_refuse 5 _ _

theorem State.becomes_resumeHeld {s : State} {p : PortId} {r : Record} (hst : (s.port p).state = .paused)
    (hc : (s.port p).current = some r) : s.Becomes (s.resumeHeld p r) := by
  have hturn : (s.port p).Turns .running := .resumes hst (by rw [hc]; rfl)
  unfold State.resumeHeld
  split
  next a _ => exact (s.becomes_turned p hturn rfl rfl rfl).trans (State.becomes_raiseClaim _ p a)
  all_goals exact s.becomes_turned p hturn rfl rfl rfl

theorem State.becomes_resumePort (s : State) (op : BitVec 4) {halted : Port → Port} (p : PortId)
    (hhalted : ∀ P : Port, P.SameDuty (halted P)) : s.Becomes (s.resumePort op halted p) := by
  unfold State.resumePort
  split
  next hst =>
    split
    next r hc => exact ((State.becomes_resumeHeld hst hc).accept op _).serve p
    next hc => exact ((s.becomes_turned p (.returns hst hc) rfl rfl rfl).accept op _).serve p
  next hst =>
    obtain ⟨hqueue, -, hheld⟩ := hhalted (s.port p)
    have hturn : s.Becomes (s.modPort p fun P => { halted P with state := .idle }) :=
      s.becomes_turned p (.rests (.inr (.inr hst)) (.inr (.inl rfl))) hqueue hheld rfl
    exact (hturn.accept op _).serve p
  next =>
    split
    · exact ((s.becomes_modPort p ⟨rfl, rfl, rfl⟩).accept op _).serve p
    · exact s.becomes_refuse op _ _
  all_goals exact s.becomes_refuse op _ _

theorem Port.sameDuty_skipMessage (P : Port) : P.SameDuty P.skipMessage := by
  unfold Port.skipMessage
  split <;> exact ⟨rfl, rfl, rfl⟩

theorem Port.sameDuty_flushMessage (P : Port) : P.SameDuty P.flushMessage := by
  unfold Port.flushMessage
  dsimp only
  split_ifs <;> exact ⟨rfl, rfl, rfl⟩

/-- A FLUSH that drops records posts its report with a free entry (R32). -/
theorem State.becomes_postFlushed (s : State) (p : PortId) (n : Nat) (h : n ≠ 0 → s.reports.full = false) :
    s.Becomes (s.postFlushed p n) := by
  unfold State.postFlushed
  split
  · exact s.becomes_refl
  next hn => exact (State.Change.posts _ (h hn)).becomes

theorem State.becomes_flushTaken {s : State} {p : PortId}
    (hst : (s.port p).state ≠ .running ∧ (s.port p).state ≠ .blocked)
    (hfree : ¬((s.port p).queue ≠ [] ∧ s.reports.full = true)) : s.Becomes (s.flushTaken p) := by
  have hfree' : (s.port p).queue.length ≠ 0 → s.reports.full = false := fun hn => by
    by_contra hf
    exact hfree ⟨fun h => hn (by simp [h]), by simpa using hf⟩
  have hport := s.dropLatch_port_same p
  obtain ⟨hqueue, hstate, hheld⟩ := ((s.dropLatch p).port p).dropQueue.sameDuty_flushMessage
  have hdrop : (s.dropLatch p).Change ((s.dropLatch p).modPort p fun P => P.dropQueue.flushMessage) := by
    refine .flushes hqueue hstate ?_ hheld
    rw [hstate, hport]
    exact hst
  exact ((((s.becomes_dropLatch p).trans hdrop.becomes).trans (State.becomes_postFlushed _ p _ hfree')).accept 8 _).serve p

theorem State.becomes_flushPort (s : State) (p : PortId) : s.Becomes (s.flushPort p) := by
  have htaken : (s.port p).state ≠ .running ∧ (s.port p).state ≠ .blocked → s.Becomes
      (if (s.port p).queue ≠ [] ∧ s.reports.full then s.refuseAt 8 .reportFull p else s.flushTaken p) := fun hst => by
    split
    next => exact s.becomes_refuse 8 .reportFull _
    next hfree => exact State.becomes_flushTaken hst hfree
  unfold State.flushPort
  split
  next hst => exact htaken (by simp [hst])
  next hst => exact htaken (by simp [hst])
  next hst => exact htaken (by simp [hst])
  next hst => exact htaken (by simp [hst])
  all_goals exact s.becomes_refuse 8 .busy _

theorem State.stateAfterReset_cases (s : State) (p : PortId) :
    s.stateAfterReset p = .disabled ∨ s.stateAfterReset p = .resetting := by
  unfold State.stateAfterReset
  split
  · exact .inr rfl
  · exact .inl rfl

theorem State.becomes_resetPort (s : State) (p : PortId) : s.Becomes (s.resetPort p) := by
  unfold State.resetPort
  split
  · exact s.becomes_refuse 9 .busy _
  · dsimp only
    have hdrop : s.Becomes ((s.dropLatch p).withdrawClaim p) := (s.becomes_dropLatch p).same (fun _ => rfl) rfl
    have hreset := State.Change.resets (s := (s.dropLatch p).withdrawClaim p) (p := p)
      (P := Port.reset (s.stateAfterReset p) (((s.dropLatch p).withdrawClaim p).port p))
      ⟨rfl, s.stateAfterReset_cases p, rfl⟩
    exact ((hdrop.trans hreset.becomes).trans (State.becomes_withMap _ _)).accept 9 _

/-! ### The report queue -/

/-- A POP that takes an entry admits the first BLOCKED port's report (R145, R146). -/
theorem State.becomes_admitFirst (s : State) : s.Becomes { s with reports := s.reports.removeHead }.admitFirst := by
  unfold State.admitFirst
  simp only [ReportQueue.removeHead_blocked]
  split
  next hb => exact (State.Change.pops hb).becomes
  next p rest hb =>
    split
    next hh => exact (State.Change.strays hb hh).becomes
    next rep hh => exact (State.Change.admits hb hh).becomes.serve p

theorem State.becomes_pop (s : State) : s.Becomes s.pop := by
  unfold State.pop
  split
  next => exact s.becomes_refuse 12 .reportEmpty 0
  next => exact s.becomes_admitFirst.accept 12 _

/-- A raising keeps the room of the report queue (R149). -/
theorem ReportQueue.sameRoom_raise (q : ReportQueue) : q.SameRoom q.raise := by
  refine ⟨rfl, q.raise_length, fun h => ?_⟩
  obtain ⟨hlen, hlow, hhigh, hhold, -⟩ := h
  exact ReportQueue.law_raise hlen hlow hhigh hhold

/-- RQCTRL's new values keep the room of the report queue (R151). -/
theorem ReportQueue.sameRoom_configure (q : ReportQueue) {threshold holdoff : Nat} (h1 : 1 ≤ threshold)
    (h2 : threshold ≤ 32) (h3 : holdoff ≤ 255) : q.SameRoom (q.configure threshold holdoff) := by
  have hraise : q.SameRoom ({ q with threshold := threshold, holdoff := holdoff } : ReportQueue).raise :=
    ⟨rfl, ReportQueue.raise_length _, fun hlaw => ReportQueue.law_raise hlaw.1 h1 h2 h3⟩
  have hkeep : (¬(1 ≤ q.unannounced ∧ threshold ≤ q.unannounced)) → (∀ n ∈ q.holdoffTimer, n ≤ holdoff) →
      q.SameRoom { q with threshold := threshold, holdoff := holdoff } := fun hu ht => by
    refine ⟨rfl, rfl, fun hlaw => ?_⟩
    obtain ⟨hlen, -, -, -, hsorted, htimer, -, -⟩ := hlaw
    refine ⟨hlen, h1, h2, h3, hsorted, htimer, ?_, ht⟩
    show q.unannounced < threshold
    omega
  unfold ReportQueue.configure
  dsimp only
  split_ifs with hu
  · exact hraise
  · split
    next n hn =>
      split_ifs with hle
      · exact hraise
      · exact hkeep hu (by rw [hn]; simp; omega)
    next hn => exact hkeep hu (by simp [hn])

/-- A time unit step keeps the room of the report queue: the holdoff timer waits at HOLDOFF (R150). -/
theorem ReportQueue.sameRoom_holdoffStep (q : ReportQueue) : q.SameRoom q.holdoffStep := by
  refine ⟨rfl, rfl, fun hlaw => ?_⟩
  obtain ⟨hlen, h1, h2, h3, hsorted, htimer, hcount, -⟩ := hlaw
  refine ⟨hlen, h1, h2, h3, hsorted, ?_, hcount, ?_⟩
  · show (q.holdoffTimer.map fun n => min (n + 1) q.holdoff).isSome = true ↔ 0 < q.unannounced
    rw [Option.isSome_map]; exact htimer
  · show ∀ n ∈ q.holdoffTimer.map fun n => min (n + 1) q.holdoff, n ≤ q.holdoff
    simp only [Option.mem_def, Option.map_eq_some_iff, forall_exists_index, and_imp, forall_apply_eq_imp_iff₂]
    exact fun n _ => Nat.min_le_right _ _

/-! ### Bursts, lookups and patches -/

theorem State.becomes_deliver (s : State) (p : PortId) (w : Work) (v : Word) : s.Becomes (s.deliver p w v) := by
  unfold State.deliver
  split
  · exact s.becomes_refl.same (fun _ => rfl) rfl
  · exact ((s.becomes_modPort p ⟨rfl, rfl, rfl⟩).trans (State.becomes_afterDelivery _ p w)).serve p

theorem State.becomes_afterSending (s : State) (p : PortId) (w : Work) : s.Becomes (s.afterSending p w) := by
  unfold State.afterSending
  dsimp only
  split_ifs
  · exact s.becomes_transferEnd p
  · exact s.becomes_refl.same (fun _ => rfl) rfl
  · exact s.becomes_wantWord p

theorem State.becomes_confirmed {s : State} {p : PortId} (hc : (s.port p).current.isSome = true) (w : Work) :
    s.Becomes (s.confirmed p w) := by
  have hcount : s.Becomes (s.modPort p fun P => { P.restartStall with moved := P.moved + P.exchanged }) :=
    s.becomes_modPort p ⟨rfl, rfl, rfl⟩
  unfold State.confirmed
  dsimp only
  split_ifs
  · exact hcount.trans (State.becomes_endHere _ p .done .absent)
  · refine hcount.trans (State.becomes_burstOver ?_)
    rw [State.port_modPort_same]; exact hc

theorem State.becomes_cutAccessEnd {s : State} {p : PortId} (hc : (s.port p).current.isSome = true) (w : Work) (c : Cut)
    (outcome : AccessOutcome) : s.Becomes (s.cutAccessEnd p w c outcome) := by
  have hcount : ∀ counted : Bool, s.Becomes (if counted then s.modPort p Port.countInbound else s) ∧
      (((if counted then s.modPort p Port.countInbound else s).port p).current.isSome = true) := fun counted => by
    cases counted
    · exact ⟨s.becomes_refl, hc⟩
    · refine ⟨s.becomes_modPort p ⟨rfl, rfl, rfl⟩, ?_⟩
      rw [if_pos rfl, State.port_modPort_same]; exact hc
  unfold State.cutAccessEnd
  cases c with
  | detached => exact (hcount _).1.trans (State.becomes_endHere _ p .detached .absent)
  | periphFault => exact (hcount _).1.trans (State.becomes_endHere _ p .periphFault .absent)
  | repeatRequest => exact (hcount _).1.trans (State.becomes_repeatBurst (hcount _).2 w)

theorem State.becomes_moveAccessEnd {s : State} {p : PortId} {w : Work} (hw : (s.port p).currentData = some w)
    (outcome : AccessOutcome) : s.Becomes (s.moveAccessEnd p w outcome) := by
  have hend : s.Becomes { s with access := none } := s.becomes_withAccess none
  unfold State.moveAccessEnd
  dsimp only
  split
  next c _ =>
    exact hend.trans (State.becomes_cutAccessEnd (s := { s with access := none })
      (Port.current_isSome_of_currentData hw) w c outcome)
  next =>
    split
    next => exact hend.trans (State.becomes_endHere _ p .busError .absent)
    next v =>
      split
      · exact (hend.trans (State.becomes_modPort _ p ⟨rfl, rfl, rfl⟩)).trans (State.becomes_wantWord _ p)
      · exact (hend.trans (State.becomes_modPort _ p ⟨rfl, rfl, rfl⟩)).trans (State.becomes_afterDelivery _ p w)

theorem State.becomes_resettingReleased {s : State} {p : PortId} (h : (s.port p).state = .resetting) :
    s.Becomes (s.resettingReleased p) :=
  s.becomes_release.trans (State.becomes_turned _ p (.released h) rfl rfl rfl)

theorem State.becomes_startMove (s : State) (p : PortId) (w : Work) : s.Becomes (s.startMove p w) := by
  have hstart : s.Becomes (s.modPort p (Port.startBurst w)) := s.becomes_modPort p ⟨rfl, rfl, rfl⟩
  unfold State.startMove
  dsimp only
  split_ifs
  · exact (hstart.trans (State.becomes_translated _ p w)).serve p
  · exact hstart.trans (State.becomes_modPort _ p ⟨rfl, rfl, rfl⟩)

theorem State.becomes_grantPort (s : State) (c : PortClass) (p : PortId) : s.Becomes (s.grantPort c p) := by
  unfold State.grantPort
  split
  · exact s.becomes_refl
  · exact (s.becomes_withArbiter _).trans (State.becomes_startMove _ p _)

theorem State.becomes_grantFetch (s : State) : s.Becomes s.grantFetch := by
  unfold State.grantFetch
  split
  · exact s.becomes_refl
  · exact s.becomes_refl.same (fun _ => rfl) rfl

theorem State.becomes_lookupFaulted (s : State) (p : PortId) (cause : LookupCause) (page : Nat) :
    s.Becomes (s.lookupFaulted p cause page) :=
  ((s.becomes_modPort p ⟨rfl, rfl, rfl⟩).trans (State.becomes_endHere _ p _ _)).serve p

theorem State.becomes_lookupPassed (s : State) (p : PortId) (w : Work) (page : Nat) (e : MapEntry) :
    s.Becomes (s.lookupPassed p w page e) :=
  (((s.becomes_modPort p ⟨rfl, rfl, rfl⟩).trans (State.becomes_loadLatch _ p _)).trans
    (State.becomes_translated _ p w)).serve p

theorem State.becomes_lookup (s : State) (p : PortId) (w : Work) (dir : Direction) : s.Becomes (s.lookup p w dir) := by
  unfold State.lookup
  dsimp only
  split
  · exact s.becomes_lookupFaulted p .outsideWindow _
  · split
    · exact (s.becomes_withMap _).trans (State.becomes_lookupFaulted _ p _ _)
    · exact (s.becomes_withMap _).trans (State.becomes_lookupPassed _ p w _ _)

theorem State.becomes_patchEnded (s : State) (f : Flight) (outcome : PatchOutcome) (st : Status) (d : Detail) :
    s.Becomes (s.patchEnded f outcome st d) := by
  unfold State.patchEnded
  dsimp only
  generalize hs3 : State.takeNextClaim _ = s3
  have hclaim : s.Becomes s3 := by
    rw [← hs3]
    exact s.becomes_refl.same (fun q => State.takeNextClaim_port _ q) (State.takeNextClaim_reports _)
  split
  next => exact hclaim
  next p _ =>
    split
    · exact (hclaim.trans (s3.becomes_recordEnd p st d)).serve p
    · exact hclaim

theorem State.becomes_fetchNext (s : State) (f : Flight) : s.Becomes (s.fetchNext f) :=
  s.becomes_refl.same (fun _ => rfl) rfl

theorem State.becomes_patchApplied (s : State) (f : Flight) : s.Becomes (s.patchApplied f) :=
  (s.becomes_withMap _).trans (State.becomes_patchEnded _ f _ _ _)

theorem State.becomes_patchWord (s : State) (f : Flight) (w : Word) : s.Becomes (s.patchWord f w) := by
  unfold State.patchWord
  dsimp only
  repeat' split
  · exact s.becomes_patchEnded _ _ _ _
  · exact s.becomes_fetchNext _
  · exact s.becomes_patchEnded _ _ _ _
  · exact s.becomes_fetchNext _
  · exact s.becomes_patchApplied _
  · exact s.becomes_fetchNext _

theorem State.becomes_patchReadEnd (s : State) (outcome : AccessOutcome) : s.Becomes (s.patchReadEnd outcome) := by
  unfold State.patchReadEnd
  split
  next => exact s.becomes_release
  next f _ =>
    split
    · split
      · exact s.becomes_patchEnded _ _ _ _
      · exact s.becomes_patchWord f _
    · exact s.becomes_refl

/-! ### Events -/

/-- The record whose outbound burst a CNF or RPT reaches is current (R75, R76). -/
theorem Port.current_isSome_of_outboundRunning {P : Port} {w : Work} (h : P.outboundRunning = some w) :
    P.current.isSome = true := by
  unfold Port.outboundRunning at h
  split at h
  · split at h
    next w' hw => exact Port.current_isSome_of_currentData hw
    next => exact absurd h (by simp)
  · exact absurd h (by simp)

/-- A CNF confirms the burst of a CONFIRMING port (R75). -/
theorem execCnf_becomes {p : PortId} {s t : State} (h : execCnf p s = .next t) : s.Becomes t := by
  obtain rfl := Host.Outcome.next.inj h
  refine State.becomes_unlessReset ?_
  split
  next => exact s.becomes_refl
  next w hw =>
    split
    · exact ((State.becomes_confirmed (Port.current_isSome_of_outboundRunning hw) w).serve p).trans
        (State.becomes_modPort _ p ⟨rfl, rfl, rfl⟩)
    · exact s.becomes_refl

/-- An RPT repeats the burst, cuts it, or is ignored (R76 to R78). -/
theorem execRpt_becomes {p : PortId} {s t : State} (h : execRpt p s = .next t) : s.Becomes t := by
  obtain rfl := Host.Outcome.next.inj h
  refine State.becomes_unlessReset ?_
  split
  next => exact s.becomes_refl
  next w hw =>
    have hrepeat : s.Becomes ((s.repeatBurst p w).serve p) :=
      (State.becomes_repeatBurst (Port.current_isSome_of_outboundRunning hw) w).serve p
    split
    next => exact hrepeat
    next =>
      split_ifs
      · exact s.becomes_refl
      · exact s.becomes_modPort p ⟨rfl, rfl, rfl⟩
      · exact s.becomes_modPort p ⟨rfl, rfl, rfl⟩
      · exact hrepeat
    all_goals exact s.becomes_refl

/-- The end of a host access goes to the burst that waits for it, or releases a RESETTING port (R95, R98). -/
theorem execHostAccessEnd_becomes {outcome : AccessOutcome} {s t : State} (h : execHostAccessEnd outcome s = .next t) :
    s.Becomes t := by
  obtain rfl := Host.Outcome.next.inj h
  refine State.becomes_unlessReset ?_
  split
  next => exact s.becomes_refl
  next => exact s.becomes_refl
  next p _ =>
    split
    · exact s.becomes_refl
    · split
      next hst => exact State.becomes_resettingReleased hst
      next =>
        split
        next => exact s.becomes_refl
        next w hw => exact (State.becomes_moveAccessEnd hw outcome).serve p

/-! ### Registers and resets -/

theorem Port.sameDuty_stallStep (P : Port) : P.SameDuty P.stallStep := by
  unfold Port.stallStep
  split <;> exact ⟨rfl, rfl, rfl⟩

theorem State.becomes_plainWrite (s : State) (offset : BitVec 8) (v : Word) : s.Becomes (s.plainWrite offset v) := by
  unfold State.plainWrite
  repeat' split
  all_goals exact s.becomes_refl.same (fun _ => rfl) rfl

theorem State.becomes_softReset (s : State) : s.Becomes s.softReset := by
  refine State.Change.becomes (.restarts (fun q => ?_) rfl)
  have hport : s.softReset.port q = Port.softReset (s.stateAfterReset q) (s.port q) := s.port_mapPorts _ q
  rw [hport]
  exact ⟨rfl, s.stateAfterReset_cases q, rfl⟩

/-! ### The commands -/

/-- Every command is a chain of elementary changes. -/
theorem exec_becomes {c : Instr} {s t : State} (h : exec c s = .next t) : s.Becomes t := by
  cases c
  case cnf => exact execCnf_becomes h
  case rpt => exact execRpt_becomes h
  case hostAccessEnd => exact execHostAccessEnd_becomes h
  all_goals obtain rfl := Host.Outcome.next.inj h
  case post => exact State.becomes_portCommand fun p => s.becomes_post p
  case withdraw tag => exact State.becomes_portCommand fun p => s.becomes_withdraw p tag
  case enable => exact State.becomes_portCommand fun p => s.becomes_enablePort p
  case disable => exact State.becomes_portCommand fun p => s.becomes_disablePort p
  case pause => exact State.becomes_portCommand fun p => s.becomes_pausePort p
  case resumeRecord => exact State.becomes_portCommand fun p => s.becomes_resumePort 6 p fun _ => ⟨rfl, rfl, rfl⟩
  case resumeMessage => exact State.becomes_portCommand fun p => s.becomes_resumePort 7 p Port.sameDuty_skipMessage
  case flush => exact State.becomes_portCommand fun p => s.becomes_flushPort p
  case portReset => exact State.becomes_portCommand fun p => s.becomes_resetPort p
  case patch =>
    refine State.becomes_portCommand fun p => ?_
    unfold State.hostPatch
    split_ifs
    · exact s.becomes_refuse 10 .misaligned 0
    · exact s.becomes_refuse 10 .busy 0
    · exact (s.becomes_withMap _).accept 10 0
  case fence =>
    refine State.becomes_command ?_
    unfold State.fence
    split
    · exact s.becomes_refuse 11 .busy 0
    · exact (s.becomes_withMap _).accept 11 _
  case pop => exact State.becomes_command s.becomes_pop
  case softReset =>
    refine State.becomes_unlessReset ?_
    split
    · exact s.becomes_refuse 15 .busy 0
    · exact s.becomes_softReset.accept 15 _
  case badCommand opcode => exact State.becomes_unlessReset (s.becomes_refuse opcode .badCommand 0)
  case ackpeek => exact State.becomes_windowRead (s.becomes_answerRead _)
  case acknest =>
    refine State.becomes_windowRead (State.becomes_of_same (fun q => ?_) ?_) <;> unfold State.ackNest <;>
      repeat' split
    all_goals rfl
  case eos => exact State.becomes_unlessReset (State.becomes_of_same (fun _ => rfl) rfl)
  case mapdataWrite v =>
    refine State.becomes_unlessReset ?_
    split
    · exact s.becomes_ignoreWrite
    · exact s.becomes_withMap _
  case mapdataRead =>
    refine State.becomes_windowRead ?_
    split
    · exact s.becomes_answerRead 0
    · exact (s.becomes_withMap _).trans (State.becomes_answerRead _ _)
  case configWrite p f =>
    refine State.becomes_unlessReset ?_
    split
    · exact s.becomes_modPort p ⟨rfl, rfl, rfl⟩
    · exact s.becomes_ignoreWrite
  case windowWrite p v =>
    refine State.becomes_unlessReset ?_
    split
    · exact s.becomes_modPort p ⟨rfl, rfl, rfl⟩
    · exact s.becomes_ignoreWrite
  case rqctrlWrite v =>
    refine State.becomes_unlessReset ?_
    split
    next => exact s.becomes_ignoreWrite
    next hv =>
      simp only [Bool.or_eq_true, beq_iff_eq, decide_eq_true_eq, not_or] at hv
      obtain ⟨⟨-, hlow⟩, hhigh⟩ := hv
      have hhold : field v 8 8 < 256 := Nat.mod_lt _ (by decide)
      exact State.becomes_of_sameRoom (fun _ => rfl)
        (ReportQueue.sameRoom_configure _ (by omega) (by omega) (by omega))
  case gctrlWrite v =>
    refine State.becomes_unlessReset ?_
    split
    · exact s.becomes_ignoreWrite
    · exact State.becomes_of_same (fun _ => rfl) rfl
  case portStatusClear p v => exact State.becomes_unlessReset (s.becomes_modPort p ⟨rfl, rfl, rfl⟩)
  case reportDueClear =>
    exact State.becomes_unlessReset (State.becomes_of_sameRoom (fun _ => rfl) ⟨rfl, rfl, id⟩)
  case mapstatClear => exact State.becomes_unlessReset (s.becomes_withMap _)
  case astatClear => exact State.becomes_unlessReset (State.becomes_of_same (fun _ => rfl) rfl)
  case writeIgnoredClear => exact State.becomes_unlessReset (State.becomes_of_same (fun _ => rfl) rfl)
  case registerWrite offset narrow v =>
    refine State.becomes_unlessReset ?_
    split_ifs
    · exact s.becomes_ignoreWrite
    · exact s.becomes_refl
    · exact s.becomes_plainWrite offset v
  case powerOnReset =>
    refine State.Change.becomes (.restarts (fun q => ?_) rfl)
    have hport : ({ State.reset with ports := (s.mapPorts fun _ => Port.powerOnAt).ports, pending := s.pending } :
        State).port q = Port.powerOnAt (s.port q) := s.port_mapPorts _ q
    rw [hport]
    exact ⟨rfl, .inl rfl, rfl⟩
  case initEnd =>
    refine State.becomes_unlessReset ?_
    split
    · exact State.becomes_of_same (fun _ => rfl) rfl
    · exact s.becomes_refl
  case attach p =>
    exact State.becomes_lineEvent (fun _ => ⟨rfl, rfl, rfl⟩) fun t =>
      (t.becomes_modPort p ⟨rfl, rfl, rfl⟩).trans (State.becomes_serveIdle _ p)
  case detach p =>
    exact State.becomes_lineEvent (fun _ => ⟨rfl, rfl, rfl⟩) fun t =>
      (t.becomes_modPort p ⟨rfl, rfl, rfl⟩).trans (State.becomes_cutRecord _ p .detached .detached)
  case flt p => exact State.becomes_unlessReset (s.becomes_cutRecord p .periphFault .periphFault)
  case rdyRise p =>
    exact State.becomes_lineEvent (fun _ => ⟨rfl, rfl, rfl⟩) fun t => t.becomes_modPort p (Port.sameDuty_settle _)
  case rdyFall p =>
    refine State.becomes_lineEvent (fun _ => ⟨rfl, rfl, rfl⟩) fun t => ?_
    split
    · exact (t.becomes_transferEnd p).serve p
    · exact t.becomes_refl
  case inboundWordTaken p w endMark =>
    refine State.becomes_unlessReset ?_
    split
    · split
      · exact (s.becomes_modPort p ⟨rfl, rfl, rfl⟩).trans (State.becomes_deliver _ p _ w)
      · exact s.becomes_refl
    · exact s.becomes_refl
  case outboundWordSent p =>
    refine State.becomes_unlessReset ?_
    split
    · split
      · exact ((s.becomes_modPort p ⟨rfl, rfl, rfl⟩).trans (State.becomes_afterSending _ p _)).serve p
      · exact s.becomes_refl
    · exact s.becomes_refl
  case discardWord p w endMark =>
    refine State.becomes_unlessReset ?_
    split
    · exact (s.becomes_modPort p ⟨rfl, rfl, rfl⟩).serve p
    · exact s.becomes_refl
  case grant =>
    refine State.becomes_unlessReset ?_
    split_ifs
    · exact s.becomes_refl
    · exact s.becomes_grantFetch
    · split
      · exact s.becomes_refl
      · exact s.becomes_grantPort _ _
  case lookup p =>
    refine State.becomes_unlessReset ?_
    repeat' split
    · exact s.becomes_lookup p _ _
    all_goals exact s.becomes_refl
  case patchReadEnd outcome =>
    refine State.becomes_unlessReset ?_
    split
    · exact s.becomes_patchReadEnd outcome
    · exact s.becomes_refl
  case resettingRelease p =>
    refine State.becomes_unlessReset ?_
    split
    next h => exact State.becomes_resettingReleased h.1
    next => exact s.becomes_refl
  case disturbance => exact State.becomes_unlessReset (s.becomes_withMap _)
  case stallExpiry p =>
    refine State.becomes_unlessReset ?_
    split
    · exact (s.becomes_endHere p .stalled .absent).serve p
    · exact s.becomes_refl
  case holdoffExpiry =>
    refine State.becomes_unlessReset ?_
    repeat' split
    · exact State.becomes_of_sameRoom (fun _ => rfl) s.reports.sameRoom_raise
    all_goals exact s.becomes_refl
  case canRelease p =>
    refine State.becomes_unlessReset ?_
    split
    · exact s.becomes_modPort p ⟨rfl, rfl, rfl⟩
    · exact s.becomes_refl
  case timeUnitStep =>
    refine State.becomes_unlessReset ?_
    exact (s.becomes_mapPorts fun q => (s.port q).sameDuty_stallStep).trans
      (State.becomes_of_sameRoom (fun _ => rfl) s.reports.sameRoom_holdoffStep)
  case initEntryWritten =>
    refine State.becomes_unlessReset ?_
    split
    · exact s.becomes_withMap _
    · exact s.becomes_refl
  case resetAsserted => exact State.becomes_of_same (fun _ => rfl) rfl

/-- With no command waiting the part's time goes on: no queue, state or report changes. -/
theorem State.becomes_clockCycle (s : State) : s.Becomes s.clockCycle := by
  unfold State.clockCycle
  split_ifs
  · exact s.becomes_refl
  · exact State.becomes_of_same (fun _ => rfl) rfl
  · exact State.becomes_of_same (fun _ => rfl) rfl
  · exact (s.becomes_mapPorts fun _ => ⟨rfl, rfl, rfl⟩).same (fun _ => rfl) rfl

/-- Every step is a chain of elementary changes. -/
theorem step_becomes {s t : State} (h : step s = .next t) : s.Becomes t := by
  unfold step at h
  split at h
  next => obtain rfl := Host.Outcome.next.inj h; exact s.becomes_clockCycle
  next c rest _ =>
    have hpend : s.Becomes { s with pending := rest } := State.becomes_of_same (fun _ => rfl) rfl
    exact hpend.trans (exec_becomes h)

end Sys2Proof.Machine
end

section
/-! The laws of the pool, of the queues and of the blocked list (laws 1, 7 and 8): each elementary change keeps them, and so
does every step. -/

namespace Sys2Proof.Machine

/-! ### The pool (R11, R14) -/

theorem State.occupied_eq_sum (s : State) : s.occupied = ∑ q : PortId, (s.port q).queue.length := by
  simp [State.occupied, allPorts, Fin.sum_univ_eight, Nat.add_assoc]

/-- The pool is no fuller when no queue is longer. -/
theorem State.occupied_le {s t : State} (h : ∀ q, (t.port q).queue.length ≤ (s.port q).queue.length) :
    t.occupied ≤ s.occupied := by
  rw [State.occupied_eq_sum, State.occupied_eq_sum]
  exact Finset.sum_le_sum fun q _ => h q

theorem State.occupied_setPort_le {s : State} {p : PortId} {P : Port}
    (h : P.queue.length ≤ (s.port p).queue.length) : (s.setPort p P).occupied ≤ s.occupied := by
  refine State.occupied_le fun q => ?_
  rw [State.port_setPort]
  split
  next hq => subst hq; exact h
  next => exact Nat.le_refl _

/-- A record that joins a queue takes one slot (R12). -/
theorem State.occupied_append (s : State) (p : PortId) (r : Record) :
    (s.modPort p (Port.append r)).occupied = s.occupied + 1 := by
  have hlen : ∀ q, ((s.modPort p (Port.append r)).port q).queue.length =
      (s.port q).queue.length + if q = p then 1 else 0 := fun q => by
    rw [State.port_modPort]
    split
    next hq => subst hq; simp [Port.append]
    next => rfl
  simp only [State.occupied_eq_sum, hlen, Finset.sum_add_distrib, Finset.sum_ite_eq', Finset.mem_univ, if_true]

theorem Port.completeRetirement_queue (st : Status) (P : Port) : (P.completeRetirement st).queue = P.queue.tail := by
  unfold Port.completeRetirement
  dsimp only
  split_ifs <;> rfl

theorem Port.takeUp_queue (r : Record) (rest : List Slot) (P : Port) :
    (P.takeUp r rest).queue = ⟨r, .current⟩ :: rest := by
  unfold Port.takeUp
  dsimp only
  repeat' split
  all_goals rfl

theorem Port.block_queue_length (st : Status) (rep : Report) (P : Port) :
    (P.block st rep).queue.length = P.queue.length := by
  cases hq : P.queue <;> simp [Port.block, hq]

/-- A retirement takes a slot from its port or leaves it (R61, R62). -/
theorem State.occupied_retire_le (s : State) (p : PortId) (st : Status) (needed : Bool) (rep : Report) :
    (s.retire p st needed rep).occupied ≤ s.occupied := by
  have hcomplete : (s.modPort p (Port.completeRetirement st)).occupied ≤ s.occupied :=
    State.occupied_setPort_le (by rw [Port.completeRetirement_queue, List.length_tail]; omega)
  unfold State.retire
  split_ifs
  · exact hcomplete
  · exact State.occupied_setPort_le (Port.block_queue_length st rep _).le
  · exact hcomplete

/-- Only a record that joins fills the pool, and it finds a free slot. -/
theorem State.Change.keeps_pool {s t : State} (h : s.Change t) (hs : s.PoolLaw) : t.PoolLaw := by
  have hs' : s.occupied ≤ 64 := hs
  show t.occupied ≤ 64
  cases h with
  | quiet hports _ =>
    refine (State.occupied_le fun q => ?_).trans hs
    rw [(hports q).1]
  | turns hqueue _ _ => exact (State.occupied_setPort_le (by rw [hqueue])).trans hs
  | takesUp _ hqueue => exact (State.occupied_setPort_le (by rw [Port.takeUp_queue, hqueue]; rfl)).trans hs
  | retires _ st needed rep => exact (s.occupied_retire_le _ st needed rep).trans hs
  | joins r _ hroom => rw [State.occupied_append]; exact hroom
  | leaves hslot _ => exact (State.occupied_setPort_le (List.length_eraseIdx_le _ _)).trans hs
  | flushes hqueue _ _ _ => exact (State.occupied_setPort_le (by rw [hqueue]; exact Nat.zero_le _)).trans hs
  | posts rep _ => exact hs
  | @resets p P hclear =>
    obtain ⟨hqueue, -, -⟩ := hclear
    exact (State.occupied_setPort_le (s := s) (p := p) (P := P) (by rw [hqueue]; exact Nat.zero_le _)).trans hs
  | restarts hclear _ =>
    refine (State.occupied_le fun q => ?_).trans hs
    rw [(hclear q).1]
    exact Nat.zero_le _
  | pops _ => exact hs
  | @admits p rest rep _ _ =>
    refine (State.occupied_setPort_le ?_).trans hs
    rw [Port.completeRetirement_queue, List.length_tail]
    omega
  | strays _ _ => exact hs

/-- Settles O57: the pool's law is kept by every elementary change. -/
theorem poolLawKept : Obligations.PoolLawKept := by
  unfold Obligations.PoolLawKept
  exact fun s t hs hstep => (step_becomes hstep).keeps State.Change.keeps_pool hs

/-! ### The law of a queue (R14, R21) -/

theorem Port.QueueLaw.of_sameDuty {P Q : Port} (h : P.QueueLaw) (hd : P.SameDuty Q) : Q.QueueLaw := by
  obtain ⟨hqueue, hstate, hheld⟩ := hd
  simpa only [Port.QueueLaw, Port.headStage, hqueue, hstate, hheld] using h

/-- A port at rest with queued records alone. -/
theorem Port.queueLaw_of_queued {P : Port} (hqueue : ∀ slot ∈ P.queue, slot.stage = .queued)
    (hstate : P.state = .disabled ∨ P.state = .idle ∨ P.state = .halted ∨ P.state = .paused)
    (hheld : P.heldReport = none) : P.QueueLaw := by
  have hhead : P.headStage ≠ some .current ∧ P.headStage ≠ some .ended := by
    unfold Port.headStage
    cases hq : P.queue with
    | nil => simp
    | cons slot rest => simp [hqueue slot (by simp [hq])]
  refine ⟨fun slot hs => hqueue slot (List.mem_of_mem_tail hs), ?_, ?_, fun _ => hhead.2, fun _ => hhead, ?_, ?_⟩ <;>
    rcases hstate with h | h | h | h <;> simp [h, hheld]

/-- A port that the resets leave. -/
theorem Port.Cleared.queueLaw {P : Port} (h : P.Cleared) : P.QueueLaw := by
  obtain ⟨hqueue, hstate, hheld⟩ := h
  rcases hstate with hst | hst <;> simp [Port.QueueLaw, Port.headStage, hqueue, hst, hheld]

theorem Port.headStage_of_current {P : Port} (h : P.current.isSome = true) : P.headStage = some .current := by
  unfold Port.current at h
  split at h
  next r rest hq => simp [Port.headStage, hq]
  next => exact absurd h (by simp)

theorem Port.current_isSome_of_headStage {P : Port} (h : P.headStage = some .current) : P.current.isSome = true := by
  unfold Port.headStage at h
  cases hq : P.queue with
  | nil => simp [hq] at h
  | cons slot rest =>
    obtain ⟨r, st⟩ := slot
    simp only [hq, List.head?_cons, Option.map_some, Option.some.injEq] at h
    subst h
    simp [Port.current, hq]

/-- A port with a current record is RUNNING or PAUSED (R21). -/
theorem Port.QueueLaw.state_of_current {P : Port} (h : P.QueueLaw) (hc : P.current.isSome = true) :
    P.state = .running ∨ P.state = .paused := by
  obtain ⟨-, -, hblocked, -, hrest, hreset, -⟩ := h
  have hhead := Port.headStage_of_current hc
  cases hst : P.state with
  | running => exact .inl rfl
  | paused => exact .inr rfl
  | blocked => exact absurd (hhead.symm.trans (hblocked hst)) (by decide)
  | resetting => simp [Port.headStage, hreset hst] at hhead
  | disabled => exact absurd hhead (hrest (by simp [hst])).1
  | idle => exact absurd hhead (hrest (by simp [hst])).1
  | halted => exact absurd hhead (hrest (by simp [hst])).1

theorem Port.QueueLaw.held_of_not_blocked {P : Port} (h : P.QueueLaw) (hst : P.state ≠ .blocked) :
    P.heldReport = none := by
  obtain ⟨-, -, -, -, -, -, hheld⟩ := h
  cases hr : P.heldReport with
  | none => rfl
  | some rep => exact absurd (hheld.mp (by rw [hr]; rfl)) hst

/-- The records of a port whose head is neither CURRENT nor ENDED are all queued. -/
theorem Port.QueueLaw.all_queued {P : Port} (h : P.QueueLaw) (hc : P.headStage ≠ some .current)
    (he : P.headStage ≠ some .ended) : ∀ slot ∈ P.queue, slot.stage = .queued := by
  obtain ⟨htail, -⟩ := h
  cases hq : P.queue with
  | nil => simp
  | cons slot rest =>
    have hslot : slot.stage = .queued := by
      cases hst : slot.stage <;> simp [Port.headStage, hq, hst] at hc he ⊢
    intro x hx
    rcases List.mem_cons.mp hx with rfl | hx
    · exact hslot
    · exact htail x (by rw [hq]; exact hx)

/-- A turn keeps the law, and neither leaves BLOCKED nor comes to it. -/
theorem Port.QueueLaw.turned {P Q : Port} (h : P.QueueLaw) (ht : P.Turns Q.state) (hqueue : Q.queue = P.queue)
    (hheld : Q.heldReport = P.heldReport) : Q.QueueLaw ∧ P.state ≠ .blocked ∧ Q.state ≠ .blocked := by
  have hhead : Q.headStage = P.headStage := by simp only [Port.headStage, hqueue]
  have h' := h
  obtain ⟨htail, hrun, -, hpaused, hrest, hreset, -⟩ := h'
  have hnone : P.state ≠ .blocked → Q.heldReport = none := fun hb => hheld.trans (h.held_of_not_blocked hb)
  generalize hQ : Q.state = st at ht
  cases ht with
  | rests hP hst =>
    obtain ⟨hc, he⟩ := hrest hP
    have hb : P.state ≠ .blocked := by rcases hP with hP | hP | hP <;> simp [hP]
    refine ⟨Port.queueLaw_of_queued (by rw [hqueue]; exact h.all_queued hc he) ?_ (hnone hb), hb, ?_⟩ <;>
      rcases hst with hst | hst | hst <;> simp [hQ, hst]
  | pauses hP =>
    have hc : P.headStage = some .current := hP.elim hrun Port.headStage_of_current
    have hb : P.state ≠ .blocked := by
      rcases h.state_of_current (Port.current_isSome_of_headStage hc) with hs | hs <;> simp [hs]
    refine ⟨⟨by rw [hqueue]; exact htail, ?_, ?_, ?_, ?_, ?_, ?_⟩, hb, by simp⟩ <;> simp [hQ, hhead, hc, hnone hb]
  | resumes hP hc =>
    have hc' := Port.headStage_of_current hc
    have hb : P.state ≠ .blocked := by simp [hP]
    refine ⟨⟨by rw [hqueue]; exact htail, ?_, ?_, ?_, ?_, ?_, ?_⟩, hb, by simp⟩ <;> simp [hQ, hhead, hc', hnone hb]
  | returns hP hc =>
    have hb : P.state ≠ .blocked := by simp [hP]
    have hne : P.headStage ≠ some .current := fun hh => by
      have := Port.current_isSome_of_headStage hh
      simp [hc] at this
    exact ⟨Port.queueLaw_of_queued (by rw [hqueue]; exact h.all_queued hne (hpaused hP)) (by simp [hQ]) (hnone hb), hb,
      by simp⟩
  | released hP =>
    have hb : P.state ≠ .blocked := by simp [hP]
    exact ⟨Port.queueLaw_of_queued (by rw [hqueue, hreset hP]; simp) (by simp [hQ]) (hnone hb), hb, by simp⟩

theorem Port.takeUp_state (r : Record) (rest : List Slot) (P : Port) : (P.takeUp r rest).state = .running := by
  unfold Port.takeUp
  dsimp only
  repeat' split
  all_goals rfl

theorem Port.takeUp_heldReport (r : Record) (rest : List Slot) (P : Port) :
    (P.takeUp r rest).heldReport = P.heldReport := by
  unfold Port.takeUp
  dsimp only
  repeat' split
  all_goals rfl

/-- A head taken up keeps the law (R22). -/
theorem Port.QueueLaw.takenUp {P : Port} (h : P.QueueLaw) {slot : Slot} {rest : List Slot} (hidle : P.state = .idle)
    (hq : P.queue = slot :: rest) : (P.takeUp slot.record rest).QueueLaw := by
  have hheld : (P.takeUp slot.record rest).heldReport = none := by
    rw [Port.takeUp_heldReport]; exact h.held_of_not_blocked (by simp [hidle])
  obtain ⟨htail, -⟩ := h
  refine ⟨?_, ?_, ?_, ?_, ?_, ?_, ?_⟩ <;>
    simp only [Port.takeUp_state, Port.headStage, Port.takeUp_queue, hheld]
  · rw [hq] at htail; exact htail
  all_goals simp

theorem Port.completeRetirement_heldReport (st : Status) (P : Port) : (P.completeRetirement st).heldReport = none := by
  unfold Port.completeRetirement
  dsimp only
  split_ifs <;> rfl

/-- A retirement that completes brings its port to HALTED, PAUSED or IDLE (R61). -/
theorem Port.completeRetirement_state (st : Status) (P : Port) :
    (P.completeRetirement st).state = .halted ∨ (P.completeRetirement st).state = .paused ∨
      (P.completeRetirement st).state = .idle := by
  unfold Port.completeRetirement
  dsimp only
  split_ifs with _ _ hp
  · exact .inl rfl
  · exact .inr (.inl rfl)
  · exact .inr (.inl hp)
  · exact .inr (.inr rfl)

/-- A retirement that completes keeps the law (R61). -/
theorem Port.QueueLaw.completed {P : Port} (h : P.QueueLaw) (st : Status) : (P.completeRetirement st).QueueLaw := by
  obtain ⟨htail, -⟩ := h
  refine Port.queueLaw_of_queued ?_ ?_ (P.completeRetirement_heldReport st)
  · rw [Port.completeRetirement_queue]; exact htail
  · rcases P.completeRetirement_state st with hs | hs | hs <;> simp [hs]

theorem Port.completeRetirement_not_blocked (st : Status) (P : Port) : (P.completeRetirement st).state ≠ .blocked := by
  rcases P.completeRetirement_state st with hs | hs | hs <;> simp [hs]

/-- A retirement that blocks keeps the law (R62). -/
theorem Port.QueueLaw.blocks {P : Port} (h : P.QueueLaw) (hc : P.current.isSome = true) (st : Status) (rep : Report) :
    (P.block st rep).QueueLaw := by
  obtain ⟨htail, -⟩ := h
  have hhead := Port.headStage_of_current hc
  cases hq : P.queue with
  | nil => simp [Port.headStage, hq] at hhead
  | cons slot rest =>
    rw [hq] at htail
    refine ⟨?_, ?_, ?_, ?_, ?_, ?_, ?_⟩ <;> simp only [Port.block, Port.headStage, hq]
    · exact htail
    all_goals simp

/-- A record that joins the tail keeps the law (R12). -/
theorem Port.QueueLaw.appended {P : Port} (h : P.QueueLaw) (hst : P.state ≠ .resetting) (r : Record) :
    (P.append r).QueueLaw := by
  cases hq : P.queue with
  | nil =>
    have hc : P.headStage ≠ some .current := by simp [Port.headStage, hq]
    have hb : P.state ≠ .blocked := fun hb => by
      obtain ⟨-, -, hblocked, -⟩ := h
      simp [Port.headStage, hq] at hblocked
      exact hblocked hb
    have hr : P.state ≠ .running := fun hr => by
      obtain ⟨-, hrun, -⟩ := h
      exact hc (hrun hr)
    refine Port.queueLaw_of_queued (by simp [Port.append, hq]) ?_ (h.held_of_not_blocked hb)
    show P.state = .disabled ∨ P.state = .idle ∨ P.state = .halted ∨ P.state = .paused
    cases hs : P.state <;> simp_all
  | cons slot rest =>
    have hhead : (P.append r).headStage = P.headStage := by simp [Port.headStage, Port.append, hq]
    obtain ⟨htail, hrun, hblocked, hpaused, hrest, hreset, hheld⟩ := h
    refine ⟨?_, ?_, ?_, ?_, ?_, fun hs => absurd hs hst, hheld⟩
    · intro x hx
      rw [hq] at htail
      simp only [Port.append, hq, List.cons_append, List.tail_cons, List.mem_append, List.mem_singleton] at hx
      rcases hx with hx | rfl
      · exact htail x hx
      · rfl
    all_goals rw [hhead]
    exacts [hrun, hblocked, hpaused, hrest]

/-- The removal of a queued record keeps the law (R34). -/
theorem Port.QueueLaw.removed {P : Port} (h : P.QueueLaw) {i : Nat} {slot : Slot} (hslot : P.queue[i]? = some slot)
    (hstage : slot.stage = .queued) : ({ P with queue := P.queue.eraseIdx i } : Port).QueueLaw := by
  cases hq : P.queue with
  | nil => simp [hq] at hslot
  | cons head rest =>
    cases i with
    | zero =>
      simp only [hq, List.getElem?_cons_zero, Option.some.injEq] at hslot
      subst hslot
      have hhead : P.headStage = some .queued := by simp [Port.headStage, hq, hstage]
      have hb : P.state ≠ .blocked := fun hb => by
        obtain ⟨-, -, hblocked, -⟩ := h
        exact absurd (hhead.symm.trans (hblocked hb)) (by decide)
      have hheld := h.held_of_not_blocked hb
      obtain ⟨htail, hrun, -, -, -, hreset, -⟩ := h
      have hr : P.state ≠ .running := fun hr => absurd (hhead.symm.trans (hrun hr)) (by decide)
      have hs : P.state ≠ .resetting := fun hs => by simp [hreset hs] at hq
      rw [hq] at htail
      refine Port.queueLaw_of_queued htail ?_ hheld
      show P.state = .disabled ∨ P.state = .idle ∨ P.state = .halted ∨ P.state = .paused
      cases hst : P.state <;> simp_all
    | succ j =>
      have hhead : ({ P with queue := (head :: rest).eraseIdx (j + 1) } : Port).headStage = P.headStage := by
        simp [Port.headStage, hq]
      obtain ⟨htail, hrun, hblocked, hpaused, hrest, hreset, hheld⟩ := h
      refine ⟨?_, ?_, ?_, ?_, ?_, fun hs => absurd (hreset hs) (by simp [hq]), hheld⟩
      · rw [hq] at htail
        exact fun x hx => htail x (List.mem_of_mem_eraseIdx hx)
      all_goals rw [hhead]
      exacts [hrun, hblocked, hpaused, hrest]

/-! ### The blocked list (R143) -/

/-- The queues, the blocked list and the report queue agree (laws 5, 7 and 8). -/
abbrev State.QueuesSound (s : State) : Prop := (∀ p, (s.port p).QueueLaw) ∧ s.BlockedLaw ∧ s.reports.Law

/-- One port changes, and neither leaves BLOCKED nor comes to it. -/
theorem State.QueuesSound.setPort {s : State} (h : s.QueuesSound) {p : PortId} {P : Port} (hP : P.QueueLaw)
    (hb : P.state = .blocked ↔ (s.port p).state = .blocked) : (s.setPort p P).QueuesSound := by
  obtain ⟨hlaws, ⟨hnodup, hmem, hfull⟩, hrep⟩ := h
  refine ⟨fun q => ?_, ⟨hnodup, fun q => ?_, hfull⟩, hrep⟩ <;> rw [State.port_setPort] <;> split
  next => exact hP
  next => exact hlaws q
  next hq => subst hq; exact (hmem q).trans hb.symm
  next => exact hmem q

/-- With a free entry no port is BLOCKED (R143). -/
theorem State.BlockedLaw.nil_of_free {s : State} (h : s.BlockedLaw) (hfree : s.reports.full = false) :
    s.reports.entries.length < 32 ∧ s.reports.blocked = [] := by
  have hlen : s.reports.entries.length < 32 := by simpa [ReportQueue.full] using hfree
  obtain ⟨-, -, hfull⟩ := h
  refine ⟨hlen, by_contra fun hne => ?_⟩
  have := hfull hne
  omega

/-- A posting with a free entry keeps the laws (R142). -/
theorem State.QueuesSound.posted {s : State} (h : s.QueuesSound) (rep : Report) (hfree : s.reports.full = false) :
    ({ s with reports := s.reports.post rep } : State).QueuesSound := by
  obtain ⟨hlaws, hblocked, hrep⟩ := h
  obtain ⟨hlen, hnil⟩ := hblocked.nil_of_free hfree
  obtain ⟨hnodup, hmem, -⟩ := hblocked
  refine ⟨hlaws, ⟨?_, fun q => ?_, fun hne => absurd ?_ hne⟩, ReportQueue.law_post rep hrep hlen⟩
  · simpa using hnodup
  · simpa using hmem q
  · simpa using hnil

/-- A retirement keeps the laws: it completes, with or without a report, or its port joins the blocked list (R61, R62). -/
theorem State.QueuesSound.retired {s : State} (h : s.QueuesSound) {p : PortId} (hc : (s.port p).current.isSome = true)
    (st : Status) (needed : Bool) (rep : Report) : (s.retire p st needed rep).QueuesSound := by
  have hlaw := h.1 p
  have hnb : (s.port p).state ≠ .blocked := by rcases hlaw.state_of_current hc with hs | hs <;> simp [hs]
  have hcomplete : (s.modPort p (Port.completeRetirement st)).QueuesSound :=
    h.setPort (hlaw.completed st) (iff_of_false (Port.completeRetirement_not_blocked st _) hnb)
  unfold State.retire
  split_ifs with hn hfull
  · exact hcomplete
  · obtain ⟨hlaws, ⟨hnodup, hmem, -⟩, hrep⟩ := h
    have hout : p ∉ s.reports.blocked := fun hin => hnb ((hmem p).mp hin)
    have hport : ∀ q, (s.modPort p (Port.block st rep)).port q = if q = p then (s.port p).block st rep else s.port q :=
      fun q => s.port_modPort p q _
    refine ⟨fun q => ?_, ⟨?_, fun q => ?_, fun _ => ?_⟩, hrep⟩
    · show ((s.modPort p (Port.block st rep)).port q).QueueLaw
      rw [hport]
      split
      next => exact hlaw.blocks hc st rep
      next => exact hlaws q
    · exact List.nodup_append.mpr ⟨hnodup, by simp, by
        simp only [List.mem_singleton, forall_eq]; exact fun a ha hap => hout (hap ▸ ha)⟩
    · show q ∈ s.reports.blocked ++ [p] ↔ ((s.modPort p (Port.block st rep)).port q).state = .blocked
      rw [hport, List.mem_append, List.mem_singleton]
      split
      next hq => exact iff_of_true (.inr hq) rfl
      next hq => rw [hmem q]; simp [hq]
    · have hle : 32 ≤ s.reports.entries.length := by simpa [ReportQueue.full] using hfull
      exact Nat.le_antisymm hrep.1 hle
  · exact hcomplete.posted rep (by simpa using hfull)

/-- The admission of the first BLOCKED port's report keeps the laws (R145, R146). -/
theorem State.QueuesSound.admitted {s : State} (h : s.QueuesSound) {p : PortId} {rest : List PortId} {rep : Report}
    (hblocked : s.reports.blocked = p :: rest) :
    ({ s with reports := ({ s.reports.removeHead with blocked := rest } : ReportQueue).post rep }.modPort p
      (Port.completeRetirement rep.status)).QueuesSound := by
  obtain ⟨hlaws, ⟨hnodup, hmem, hfull⟩, hrep⟩ := h
  rw [hblocked] at hnodup hmem
  obtain ⟨hout, hrest⟩ := List.nodup_cons.mp hnodup
  have hlen : s.reports.removeHead.entries.length = 31 := by
    rw [ReportQueue.removeHead_entries, List.length_tail, hfull (by simp [hblocked])]
  have hremoved : ({ s.reports.removeHead with blocked := rest } : ReportQueue).Law := ReportQueue.law_removeHead hrep
  have hlt : ({ s.reports.removeHead with blocked := rest } : ReportQueue).entries.length < 32 := by
    show s.reports.removeHead.entries.length < 32
    omega
  have hport : ∀ q, (({ s with reports := ({ s.reports.removeHead with blocked := rest } : ReportQueue).post rep } :
      State).modPort p (Port.completeRetirement rep.status)).port q =
      if q = p then (s.port p).completeRetirement rep.status else s.port q := fun q => State.port_modPort _ p q _
  refine ⟨fun q => ?_, ⟨?_, fun q => ?_, fun _ => ?_⟩, ReportQueue.law_post rep hremoved hlt⟩
  · rw [hport]
    split
    next => exact (hlaws p).completed rep.status
    next => exact hlaws q
  · simpa using hrest
  · rw [hport]
    show q ∈ (({ s.reports.removeHead with blocked := rest } : ReportQueue).post rep).blocked ↔ _
    rw [ReportQueue.post_blocked]
    split
    next hq => subst hq; exact iff_of_false hout (Port.completeRetirement_not_blocked _ _)
    next hq => rw [← hmem q]; simp [hq]
  · show (({ s.reports.removeHead with blocked := rest } : ReportQueue).post rep).entries.length = 32
    rw [ReportQueue.post_length]
    show s.reports.removeHead.entries.length + 1 = 32
    rw [hlen]

/-- Every elementary change keeps the queues, the blocked list and the report queue in agreement. -/
theorem State.Change.keeps_queues {s t : State} (h : s.Change t) (hs : s.QueuesSound) : t.QueuesSound := by
  cases h with
  | quiet hports hroom =>
    obtain ⟨hlaws, ⟨hnodup, hmem, hfull⟩, hrep⟩ := hs
    obtain ⟨hblocked, hlen, hlaw⟩ := hroom
    refine ⟨fun q => (hlaws q).of_sameDuty (hports q), ?_, hlaw hrep⟩
    unfold State.BlockedLaw
    rw [hblocked, hlen]
    refine ⟨hnodup, fun q => ?_, hfull⟩
    rw [(hports q).2.1]
    exact hmem q
  | @turns p P hqueue hheld hstate =>
    obtain ⟨hlaw, hbefore, hafter⟩ := (hs.1 p).turned hstate hqueue hheld
    exact hs.setPort hlaw (iff_of_false hafter hbefore)
  | @takesUp p slot rest hidle hqueue =>
    exact hs.setPort ((hs.1 p).takenUp hidle hqueue) (by simp [Port.takeUp_state, hidle])
  | retires hcurrent st needed rep => exact hs.retired hcurrent st needed rep
  | @joins p r hstate hroom => exact hs.setPort ((hs.1 p).appended hstate r) Iff.rfl
  | @leaves p i slot hslot hstage => exact hs.setPort ((hs.1 p).removed hslot hstage) Iff.rfl
  | @flushes p P hqueue hstate hrests hheld =>
    refine hs.setPort ?_ (by rw [hstate])
    have hb : (s.port p).state ≠ .blocked := hstate ▸ hrests.2
    have hnone : P.heldReport = none := hheld.trans ((hs.1 p).held_of_not_blocked hb)
    refine ⟨by simp [hqueue], fun h => absurd h hrests.1, fun h => absurd h hrests.2, ?_, ?_, fun _ => hqueue, ?_⟩
    · simp [Port.headStage, hqueue]
    · simp [Port.headStage, hqueue]
    · rw [hnone]; simp [hrests.2]
  | posts rep hfree => exact hs.posted rep hfree
  | @resets p P hclear =>
    obtain ⟨hlaws, ⟨hnodup, hmem, hfull⟩, hrep⟩ := hs
    have hport := s.port_setPort p (P := P)
    have hnb : P.state ≠ .blocked := by
      obtain ⟨-, hst, -⟩ := hclear
      rcases hst with hst | hst <;> simp [hst]
    refine ⟨fun q => ?_, ⟨hnodup.filter _, fun q => ?_, fun hne => hfull fun hnil => hne (by simp [hnil])⟩, hrep⟩
    · show ((s.setPort p P).port q).QueueLaw
      rw [hport]
      split
      next => exact hclear.queueLaw
      next => exact hlaws q
    · show q ∈ s.reports.blocked.filter (fun q => q != p) ↔ ((s.setPort p P).port q).state = .blocked
      rw [hport, List.mem_filter]
      split
      next hq => exact iff_of_false (by simp [hq]) hnb
      next hq => rw [hmem q]; simp [hq]
  | restarts hclear hreports =>
    refine ⟨fun q => (hclear q).queueLaw, ?_, ?_⟩
    · unfold State.BlockedLaw
      rw [hreports]
      refine ⟨List.nodup_nil, fun q => ?_, fun h => absurd rfl h⟩
      obtain ⟨-, hst, -⟩ := hclear q
      rcases hst with hst | hst <;> simp [hst, ReportQueue.powerOn]
    · rw [hreports]; decide
  | pops hblocked =>
    obtain ⟨hlaws, ⟨hnodup, hmem, hfull⟩, hrep⟩ := hs
    refine ⟨hlaws, ⟨?_, fun q => ?_, fun hne => absurd ?_ hne⟩, ReportQueue.law_removeHead hrep⟩
    · simpa using hnodup
    · simpa using hmem q
    · simpa using hblocked
  | admits hblocked _ => exact hs.admitted hblocked
  | @strays p rest hblocked hheld =>
    obtain ⟨hlaws, ⟨-, hmem, -⟩, -⟩ := hs
    have hst : (s.port p).state = .blocked := (hmem p).mp (by simp [hblocked])
    obtain ⟨-, -, -, -, -, -, hiff⟩ := hlaws p
    rw [hheld] at hiff
    exact absurd (hiff.mpr hst) (by simp)

/-- Settles O58: the laws of the queues and of the blocked list are kept by every elementary change. -/
theorem blockedLawKept : Obligations.BlockedLawKept := by
  unfold Obligations.BlockedLawKept
  exact fun s t hlaws hblocked hrep hstep =>
    (step_becomes hstep).keeps State.Change.keeps_queues (I := State.QueuesSound) ⟨hlaws, hblocked, hrep⟩

end Sys2Proof.Machine
end

section
/-! Port commands and the state of their port (Table 2-4): each command at the port that its field names, the states that
turn it away, and the two that leave the head of the queue alone, DISABLE and PAUSE. -/

namespace Sys2Proof.Machine

/-! ### Each command at its port (R24) -/

section
variable {s : State} {port : BitVec 4} {p : PortId}

theorem exec_withdraw (hp : port.toNat = p.val) (hs : s.Ready) (tag : BitVec 16) :
    exec (.withdraw port tag) s = .next (s.withdraw p tag) :=
  congrArg Host.Outcome.next (State.portCommand_ready hs hp 2 _)

theorem exec_enable (hp : port.toNat = p.val) (hs : s.Ready) : exec (.enable port) s = .next (s.enablePort p) :=
  congrArg Host.Outcome.next (State.portCommand_ready hs hp 3 _)

theorem exec_disable (hp : port.toNat = p.val) (hs : s.Ready) : exec (.disable port) s = .next (s.disablePort p) :=
  congrArg Host.Outcome.next (State.portCommand_ready hs hp 4 _)

theorem exec_pause (hp : port.toNat = p.val) (hs : s.Ready) : exec (.pause port) s = .next (s.pausePort p) :=
  congrArg Host.Outcome.next (State.portCommand_ready hs hp 5 _)

theorem exec_resumeRecord (hp : port.toNat = p.val) (hs : s.Ready) :
    exec (.resumeRecord port) s = .next (s.resumePort 6 id p) :=
  congrArg Host.Outcome.next (State.portCommand_ready hs hp 6 _)

theorem exec_resumeMessage (hp : port.toNat = p.val) (hs : s.Ready) :
    exec (.resumeMessage port) s = .next (s.resumePort 7 Port.skipMessage p) :=
  congrArg Host.Outcome.next (State.portCommand_ready hs hp 7 _)

theorem exec_flush (hp : port.toNat = p.val) (hs : s.Ready) : exec (.flush port) s = .next (s.flushPort p) :=
  congrArg Host.Outcome.next (State.portCommand_ready hs hp 8 _)

theorem exec_portReset (hp : port.toNat = p.val) (hs : s.Ready) :
    exec (.portReset port) s = .next (s.resetPort p) :=
  congrArg Host.Outcome.next (State.portCommand_ready hs hp 9 _)

end

/-! ### States that turn a command away (Table 2-4) -/

section
variable {s : State} {p : PortId}

theorem State.withdraw_resetting (h : (s.port p).state = .resetting) (tag : BitVec 16) :
    s.withdraw p tag = s.refuseAt 2 .busy p := if_pos h

theorem State.enablePort_resetting (h : (s.port p).state = .resetting) : s.enablePort p = s.refuseAt 3 .busy p := by
  simp [State.enablePort, h]

/-- Only a DISABLED port can be enabled (R27). -/
theorem State.enablePort_wrongState (hd : (s.port p).state ≠ .disabled) (hr : (s.port p).state ≠ .resetting) :
    s.enablePort p = s.refuseAt 3 .wrongState p := by
  unfold State.enablePort
  split
  next h => exact absurd h hd
  next h => exact absurd h hr
  all_goals rfl

/-- A port with records under way cannot be disabled (R28). -/
theorem State.disablePort_busy (h : (s.port p).state = .running ∨ (s.port p).state = .paused ∨
    (s.port p).state = .blocked ∨ (s.port p).state = .resetting) : s.disablePort p = s.refuseAt 4 .busy p := by
  rcases h with h | h | h | h <;> simp [State.disablePort, h]

theorem State.disablePort_taken (h : (s.port p).state = .disabled ∨ (s.port p).state = .idle ∨
    (s.port p).state = .halted) :
    s.disablePort p = (s.modPort p fun P => { P with state := .disabled }).accept 4 0 := by
  rcases h with h | h | h <;> simp [State.disablePort, h, PortState.code]

theorem State.pausePort_resetting (h : (s.port p).state = .resetting) : s.pausePort p = s.refuseAt 5 .busy p := by
  simp [State.pausePort, h]

theorem State.pausePort_wrongState (h : (s.port p).state = .disabled ∨ (s.port p).state = .halted) :
    s.pausePort p = s.refuseAt 5 .wrongState p := by
  rcases h with h | h <;> simp [State.pausePort, h]

theorem State.resumePort_resetting (h : (s.port p).state = .resetting) (op : BitVec 4) (halted : Port → Port) :
    s.resumePort op halted p = s.refuseAt op .busy p := by
  simp [State.resumePort, h]

/-- A port with nothing to resume (R30, R31). -/
theorem State.resumePort_wrongState (h : (s.port p).state = .disabled ∨ (s.port p).state = .idle ∨
      (s.port p).state = .blocked ∨ ((s.port p).state = .running ∧ (s.port p).pausePending = false))
    (op : BitVec 4) (halted : Port → Port) : s.resumePort op halted p = s.refuseAt op .wrongState p := by
  rcases h with h | h | h | ⟨h, hpp⟩
  case inr.inr.inr => simp [State.resumePort, h, hpp]
  all_goals simp [State.resumePort, h]

theorem State.flushPort_busy (h : (s.port p).state = .running ∨ (s.port p).state = .blocked ∨
    (s.port p).state = .resetting) : s.flushPort p = s.refuseAt 8 .busy p := by
  rcases h with h | h | h <;> simp [State.flushPort, h]

theorem State.resetPort_resetting (h : (s.port p).state = .resetting) : s.resetPort p = s.refuseAt 9 .busy p := if_pos h

end

/-- Settles O16, command by command. -/
theorem portCommandsRefusedByState : Obligations.PortCommandsRefusedByState := by
  unfold Obligations.PortCommandsRefusedByState
  intro port p tag s hp hs P refused
  have of_port : ∀ {c : Instr} {op : BitVec 4} {why : Reason} {t : State}, exec c s = .next t →
      t = s.refuseAt op why p → refused c op why := fun hexec ht => hexec.trans (congrArg _ ht)
  refine ⟨fun h => ?resetting, fun hd hr => ?enable, fun h => ?disable, fun h => ?pause, fun h => ?resume,
    fun h => ?flush⟩
  case resetting =>
    exact ⟨of_port (exec_withdraw hp hs tag) (State.withdraw_resetting h tag),
      of_port (exec_enable hp hs) (State.enablePort_resetting h),
      of_port (exec_disable hp hs) (State.disablePort_busy (.inr (.inr (.inr h)))),
      of_port (exec_pause hp hs) (State.pausePort_resetting h),
      of_port (exec_resumeRecord hp hs) (State.resumePort_resetting h 6 _),
      of_port (exec_resumeMessage hp hs) (State.resumePort_resetting h 7 _),
      of_port (exec_flush hp hs) (State.flushPort_busy (.inr (.inr h))),
      of_port (exec_portReset hp hs) (State.resetPort_resetting h)⟩
  case enable => exact of_port (exec_enable hp hs) (State.enablePort_wrongState hd hr)
  case disable => exact of_port (exec_disable hp hs) (State.disablePort_busy (h.imp_right (.imp_right .inl)))
  case pause => exact of_port (exec_pause hp hs) (State.pausePort_wrongState h)
  case resume =>
    exact ⟨of_port (exec_resumeRecord hp hs) (State.resumePort_wrongState h 6 _),
      of_port (exec_resumeMessage hp hs) (State.resumePort_wrongState h 7 _)⟩
  case flush => exact of_port (exec_flush hp hs) (State.flushPort_busy (h.imp_right .inl))

/-- Settles O20. -/
theorem disableTaken : Obligations.DisableTaken := by
  unfold Obligations.DisableTaken
  intro port p s hp hs P
  exact ⟨fun h => (exec_disable hp hs).trans (congrArg _ (State.disablePort_taken h)),
    fun h => (exec_disable hp hs).trans (congrArg _ (State.disablePort_busy h))⟩

/-! ### PAUSE (R29) -/

/-- A current PATCH record is the head of the queue, with its block address. -/
theorem Port.currentPatch_of_queue {P : Port} {r : Record} {rest : List Slot} {a : Word}
    (hq : P.queue = ⟨r, .current⟩ :: rest) (hw : r.work = .patch a) : P.currentPatch = some a := by
  obtain ⟨work, always, urgent, tag⟩ := r
  obtain rfl : work = .patch a := hw
  simp [Port.currentPatch, Port.current, hq]

/-- A port has a current PATCH record exactly if one is the CURRENT head of its queue. -/
theorem Port.currentPatch_isSome_iff (P : Port) :
    P.currentPatch.isSome = true ↔
      ∃ r rest, P.queue = ⟨r, .current⟩ :: rest ∧ r.work = .patch r.work.address := by
  constructor
  · intro h
    unfold Port.currentPatch Port.current at h
    split at h
    next a _ _ _ hc =>
      split at hc
      next r rest hq => exact ⟨r, rest, hq, by rw [Option.some.inj hc]; rfl⟩
      next => exact absurd hc (by simp)
    next => exact absurd h (by simp)
  · rintro ⟨r, rest, hq, hw⟩
    rw [Port.currentPatch_of_queue hq hw]
    rfl

/-- The patch of a port's current record is in flight while the engine holds a claim of the port that it has not dropped
(R29, R36). -/
theorem State.patchInFlight_iff (s : State) (p : PortId) :
    s.patchInFlight p = true ↔
      (∃ f ∈ s.map.engine, f.origin = .port p ∧ f.owned = true) ∧ (s.port p).currentPatch.isSome = true := by
  unfold State.patchInFlight
  cases s.map.engine <;> simp [and_assoc]

section
variable {s : State} {p : PortId}

theorem State.pausePort_idle (h : (s.port p).state = .idle) :
    s.pausePort p = (s.modPort p Port.pauseHolding).accept 5 3 := by
  simp [State.pausePort, h, PortState.code]

/-- A RUNNING port between bursts holds its record at once, its waiting claim withdrawn (R29). -/
theorem State.pausePort_holds (h : (s.port p).state = .running) (hb : (s.port p).burstOpen = false)
    (hf : s.patchInFlight p = false) :
    s.pausePort p = ((s.withdrawClaim p).modPort p Port.pauseHolding).accept 5 3 := by
  simp [State.pausePort, h, hb, hf, PortState.code]

theorem State.pausePort_pending (h : (s.port p).state = .blocked ∨ ((s.port p).state = .running ∧
      ((s.port p).burstOpen = true ∨ s.patchInFlight p = true))) :
    s.pausePort p = (s.modPort p fun P => { P with pausePending := true }).accept 5 7 := by
  rcases h with h | ⟨h, hb⟩
  · simp [State.pausePort, h]
  · simp [State.pausePort, h, hb]

theorem State.pausePort_paused (h : (s.port p).state = .paused) : s.pausePort p = s.accept 5 3 := by
  simp [State.pausePort, h, PortState.code]

end

/-- Settles O21, state by state. -/
theorem pauseTaken : Obligations.PauseTaken := by
  unfold Obligations.PauseTaken
  intro port p s hp hs P patching result paused
  have of_port : ∀ {t u : State}, s.pausePort p = t → t = u → exec (.pause port) s = .next u :=
    fun ht hu => (exec_pause hp hs).trans (congrArg _ (ht.trans hu))
  have hpatching : s.patchInFlight p = true ↔ patching :=
    (s.patchInFlight_iff p).trans (and_congr_right' (Port.currentPatch_isSome_iff P))
  refine ⟨fun h => ?idle, fun h hb hn => ?holds, fun h hb => ?pending, fun h => ?blocked, fun h => ?paused,
    fun h => ?wrongState, fun h => ?resetting⟩
  case idle => exact of_port (State.pausePort_idle h) rfl
  case holds => exact of_port (State.pausePort_holds h hb (by simpa using mt hpatching.mp hn)) rfl
  case pending => exact of_port (State.pausePort_pending (.inr ⟨h, hb.imp_right hpatching.mpr⟩)) rfl
  case blocked => exact of_port (State.pausePort_pending (.inl h)) rfl
  case paused => exact of_port (State.pausePort_paused h) rfl
  case wrongState => exact of_port (State.pausePort_wrongState h) rfl
  case resetting => exact of_port (State.pausePort_resetting h) rfl

end Sys2Proof.Machine
end

section
/-! Writes of GCTRL, RQCTRL, PORTp CONFIG and PORTp WINDOW (R44, R114, R151, R164, R165). -/

namespace Sys2Proof.Machine

/-! ### Fields of a written word -/

theorem field_shifted (w : Word) (lo n : Nat) : field w lo n = w.toNat / 2 ^ lo % 2 ^ n := by
  rw [field, Nat.shiftRight_eq_div_pow]

theorem bits_eq_ofNat_field (w : Word) (lo n : Nat) : bits w lo n = BitVec.ofNat n (w.toNat / 2 ^ lo % 2 ^ n) := by
  rw [bits_eq_ofNat]
  apply BitVec.eq_of_toNat_eq
  simp

/-- BASE and SPAN of a WINDOW word (Table 11-9). -/
theorem windowOfWord_eq (v : Word) : windowOfWord v = ⟨v.toNat % 1024, v.toNat / 65536 % 2048⟩ := by
  simp [windowOfWord, field_shifted]

/-- A window that stays inside the table (R114): SPAN alone is then in range too. -/
theorem PortWindow.inRange_iff (w : PortWindow) : w.inRange = true ↔ w.base + w.span ≤ 1024 := by
  simp only [PortWindow.inRange, Bool.and_eq_true, decide_eq_true_eq]
  omega

/-! ### CONFIG fields (Table 2-6) -/

/-- The stored CONFIG of fields under a CLASS. -/
def storedConfig (f : ConfigFields) (cls : PortClass) : PortConfig :=
  ⟨cls, f.burstQuota, f.repeatLimit, f.stallLimit, f.queueQuota, f.mappedOnly, f.patchPermit, f.attnHalt, f.attnAttach,
    f.attnPause⟩

/-- Both quotas in range (R44). -/
abbrev QuotasFit (f : ConfigFields) : Prop :=
  1 ≤ f.burstQuota ∧ f.burstQuota ≤ 64 ∧ 1 ≤ f.queueQuota ∧ f.queueQuota ≤ 64

theorem configOfFields_of_misfit {f : ConfigFields} (h : ¬ QuotasFit f) : configOfFields f = none := by
  unfold configOfFields
  rw [if_pos (by unfold QuotasFit at h; omega)]

theorem configOfFields_undefined {f : ConfigFields} (h : f.cls = .undefinedCode) : configOfFields f = none := by
  simp [configOfFields, h]

theorem configOfFields_fit {f : ConfigFields} (h : QuotasFit f) :
    (f.cls = .urgent → configOfFields f = some (storedConfig f .urgent)) ∧
    (f.cls = .normal → configOfFields f = some (storedConfig f .normal)) := by
  have hfit : ¬(f.burstQuota = 0 ∨ 64 < f.burstQuota ∨ f.queueQuota = 0 ∨ 64 < f.queueQuota) := by omega
  unfold configOfFields
  rw [if_neg hfit]
  exact ⟨fun hc => by rw [hc]; rfl, fun hc => by rw [hc]; rfl⟩

/-! ### RQCTRL (R151) -/

/-- RQCTRL raises where the unannounced count or the running timer has reached its new value (R151). -/
abbrev ReportQueue.Reaches (q : ReportQueue) (threshold holdoff : Nat) : Prop :=
  (1 ≤ q.unannounced ∧ threshold ≤ q.unannounced) ∨ ∃ n ∈ q.holdoffTimer, holdoff ≤ n

theorem ReportQueue.configure_raises {q : ReportQueue} {threshold holdoff : Nat} (h : q.Reaches threshold holdoff) :
    q.configure threshold holdoff = ({ q with threshold := threshold, holdoff := holdoff } : ReportQueue).raise := by
  unfold ReportQueue.configure
  rcases h with hcount | ⟨n, htimer, hn⟩
  · exact if_pos hcount
  · obtain htimer : q.holdoffTimer = some n := htimer
    simp [htimer, hn]

theorem ReportQueue.configure_quiet {q : ReportQueue} {threshold holdoff : Nat} (h : ¬ q.Reaches threshold holdoff) :
    q.configure threshold holdoff = { q with threshold := threshold, holdoff := holdoff } := by
  obtain ⟨hcount, htimer⟩ := not_or.mp h
  unfold ReportQueue.configure
  rw [if_neg hcount]
  split
  next n hn => exact if_neg fun hle => htimer ⟨n, hn, hle⟩
  next => rfl

/-! ### The four writes -/

section
variable {s : State}

theorem exec_gctrlWrite (hs : s.Live) (v : Word) :
    exec (.gctrlWrite v) s = .next (if v.toNat / 256 % 256 = 0 then s.ignoreWrite
      else { s with win := { s.win with
        attnEnable := v.getLsbD 0, tbdiv := BitVec.ofNat 8 (v.toNat / 256 % 256) } }) := by
  refine congrArg Host.Outcome.next ((State.unlessReset_live hs _).trans ?_)
  simp [field_shifted, bits_eq_ofNat_field, flag]

theorem exec_rqctrlWrite (hs : s.Live) (v : Word) :
    exec (.rqctrlWrite v) s = .next
      (if s.win.initBusy = true ∨ v.toNat % 64 = 0 ∨ 32 < v.toNat % 64 then s.ignoreWrite
        else { s with reports := s.reports.configure (v.toNat % 64) (v.toNat / 256 % 256) }) := by
  refine congrArg Host.Outcome.next ((State.unlessReset_live hs _).trans ?_)
  simp [field_shifted, or_assoc]

/-- RQCTRL is taken outside the map initialisation with its THRESHOLD in range (R151, R165). -/
theorem exec_rqctrlWrite_taken (hs : s.Live) {v : Word} (hb : s.win.initBusy = false) (h1 : 1 ≤ v.toNat % 64)
    (h2 : v.toNat % 64 ≤ 32) :
    exec (.rqctrlWrite v) s =
      .next { s with reports := s.reports.configure (v.toNat % 64) (v.toNat / 256 % 256) } := by
  have hinRange : ¬(s.win.initBusy = true ∨ v.toNat % 64 = 0 ∨ 32 < v.toNat % 64) := by
    rintro (h | h | h)
    · exact absurd h (by simp [hb])
    all_goals omega
  rw [exec_rqctrlWrite hs, if_neg hinRange]

/-- CONFIG is taken in DISABLED with its fields in range (R44). -/
theorem exec_configWrite_taken (hs : s.Live) {p : PortId} {f : ConfigFields} {c : PortConfig}
    (hst : (s.port p).state = .disabled) (hc : configOfFields f = some c) :
    exec (.configWrite p f) s = .next (s.setPort p { s.port p with config := c }) := by
  refine congrArg Host.Outcome.next ((State.unlessReset_live hs _).trans ?_)
  simp [hst, hc, State.modPort_eq]

theorem exec_configWrite_ignored (hs : s.Live) {p : PortId} {f : ConfigFields}
    (h : (s.port p).state ≠ .disabled ∨ configOfFields f = none) :
    exec (.configWrite p f) s = .next s.ignoreWrite := by
  refine congrArg Host.Outcome.next ((State.unlessReset_live hs _).trans ?_)
  split
  next hst hc =>
    rcases h with h | h
    · exact absurd hst h
    · exact absurd (hc.symm.trans h) (by simp)
  next => rfl

theorem exec_windowWrite (hs : s.Live) (p : PortId) (v : Word) :
    exec (.windowWrite p v) s = .next
      (if (s.port p).state = .disabled ∧ v.toNat % 1024 + v.toNat / 65536 % 2048 ≤ 1024 then
        s.setPort p { s.port p with window := ⟨v.toNat % 1024, v.toNat / 65536 % 2048⟩ }
      else s.ignoreWrite) := by
  refine congrArg Host.Outcome.next ((State.unlessReset_live hs _).trans ?_)
  simp only [PortWindow.inRange_iff, windowOfWord_eq, State.modPort_eq]

end

/-- Settles O34, register by register. -/
theorem controlRegistersWritten : Obligations.ControlRegistersWritten := by
  unfold Obligations.ControlRegistersWritten
  intro p v s hs ignored
  refine ⟨fun h => ?gctrlIgnored, fun h => ?gctrl, ⟨fun h => ?rqctrlIgnored, fun hb h1 h2 => ⟨fun h => ?raises,
    fun h => ?quiet⟩⟩, fun f => ⟨fun h => ?configIgnored, fun hst hfit => ⟨fun hc => ?urgent, fun hc => ?normal⟩⟩,
    fun h => ?windowIgnored, fun hst h => ?window⟩
  case gctrlIgnored => rw [exec_gctrlWrite hs, if_pos h]; rfl
  case gctrl => rw [exec_gctrlWrite hs, if_neg h]
  case rqctrlIgnored => rw [exec_rqctrlWrite hs, if_pos h]; rfl
  case raises =>
    rw [exec_rqctrlWrite_taken hs hb h1 h2, ReportQueue.configure_raises h]
    rfl
  case quiet =>
    rw [exec_rqctrlWrite_taken hs hb h1 h2, ReportQueue.configure_quiet h]
  case configIgnored =>
    exact exec_configWrite_ignored hs (h.imp_right (Or.rec configOfFields_of_misfit configOfFields_undefined))
  case urgent => exact exec_configWrite_taken hs hst ((configOfFields_fit hfit).1 hc)
  case normal => exact exec_configWrite_taken hs hst ((configOfFields_fit hfit).2 hc)
  case windowIgnored => rw [exec_windowWrite hs, if_neg fun ⟨hst, hle⟩ => h.elim (absurd hst) (Nat.not_lt.mpr hle)]; rfl
  case window => rw [exec_windowWrite hs, if_pos ⟨hst, h⟩]

end Sys2Proof.Machine
end

section
/-! Heads that an event lets come to an IDLE port (R22, R23): WITHDRAW of a queued record, ENABLE and the resumes. -/

namespace Sys2Proof.Machine

/-! ### A head that waits, a head that claims -/

/-- A context put back in its place. -/
theorem State.setPort_of_port {s : State} {p : PortId} {P : Port} (h : s.port p = P) : s.setPort p P = s := by
  rw [← h, State.setPort_port]

/-- The head of the queue, if there is one, is a queued data record that may not become current (R22). -/
abbrev Port.HeadWaits (P : Port) : Prop :=
  ∀ slot ∈ P.queue.head?, slot.stage = .queued ∧ slot.record.work.dir ≠ none ∧ (P.attached = false ∨ P.resync = true)

theorem Port.HeadWaits.current {P : Port} (h : P.HeadWaits) : P.current = none :=
  Port.current_of_queued fun slot hslot => by
    obtain ⟨hstage, -, -⟩ := h slot hslot
    simp [hstage]

theorem Port.HeadWaits.currentData {P : Port} (h : P.HeadWaits) : P.currentData = none := by
  simp [Port.currentData, h.current]

/-- A waiting head leaves its IDLE port IDLE, resync discard turning DIR to INBOUND (R22, R66, R82). -/
theorem State.serve_of_headWaits {s : State} {p : PortId} (hi : (s.port p).state = .idle) (h : (s.port p).HeadWaits) :
    s.serve p = s.setPort p { s.port p with
      dirLine := if (s.port p).resync && (s.port p).attached then .inbound else (s.port p).dirLine } := by
  have hexamine : s.examine p = s := by
    cases hq : (s.port p).queue with
    | nil => exact State.examine_of_empty hq
    | cons slot rest =>
      obtain ⟨-, hdir, hwait⟩ := h slot (by simp [hq])
      refine State.examine_of_waiting hq ?_
      rcases hwait with hwait | hwait <;> simp [Port.mayBecomeCurrent, Work.isData_of_dir hdir, hwait]
  rw [State.serve_of_examine hexamine, State.modPort_eq, Port.settle_of_idle_or_halted (.inl hi) h.currentData]

/-- Nothing begins at a port that serves a PATCH record, with RESYNC clear. -/
theorem Port.settle_of_patch {P : Port} {r : Record} {rest : List Slot} {a : Word}
    (hq : P.queue = ⟨r, .current⟩ :: rest) (hw : r.work = .patch a) (hrs : P.resync = false) : P.settle = P :=
  Port.settle_of_none (by simp [Port.currentData, Port.current, hq, hw, Work.isData, Work.dir])
    (by simp [Port.discards, hrs])

/-- A PATCH head becomes current and raises its claim, whatever stands behind it (R23, R131). -/
theorem State.serve_of_patchHead {s : State} {p : PortId} {r : Record} {rest : List Slot} {a : Word}
    (hi : (s.port p).state = .idle) (hq : (s.port p).queue = ⟨r, .queued⟩ :: rest) (hw : r.work = .patch a)
    (hrs : (s.port p).resync = false) :
    s.serve p = (s.setPort p ((s.port p).claiming r rest)).raiseClaim p a := by
  rw [State.serve, State.examine_of_patch hi hq hw, Port.takeUp_claiming hw, State.modPort_eq, State.raiseClaim_port,
    State.port_setPort_same, Port.settle_of_patch (P := (s.port p).claiming r rest) rfl hw hrs]
  exact State.setPort_of_port (by simp)

/-! ### The head examined after RESULT is written -/

section
variable (s : State) {p : PortId} {Q : Port} (op : BitVec 4) (v : Nat)

theorem State.accept_setPort (p : PortId) (Q : Port) : (s.accept op v).setPort p Q = (s.setPort p Q).accept op v := rfl

theorem State.serve_accepted_waits (hi : Q.state = .idle) (h : Q.HeadWaits) :
    ((s.setPort p Q).accept op v).serve p =
      (s.setPort p { Q with dirLine := if Q.resync && Q.attached then .inbound else Q.dirLine }).accept op v := by
  have hport : ((s.setPort p Q).accept op v).port p = Q := by simp
  rw [State.serve_of_headWaits (by rw [hport]; exact hi) (by rw [hport]; exact h), hport, State.accept_setPort,
    State.setPort_setPort]

theorem State.serve_accepted_claims {r : Record} {rest : List Slot} {a : Word} (hi : Q.state = .idle)
    (hq : Q.queue = ⟨r, .queued⟩ :: rest) (hw : r.work = .patch a) (hrs : Q.resync = false) :
    ((s.setPort p Q).accept op v).serve p = ((s.setPort p (Q.claiming r rest)).accept op v).raiseClaim p a := by
  have hport : ((s.setPort p Q).accept op v).port p = Q := by simp
  rw [State.serve_of_patchHead (r := r) (rest := rest) (by rw [hport]; exact hi) (by rw [hport]; exact hq) hw
    (by rw [hport]; exact hrs), hport, State.accept_setPort, State.setPort_setPort]

/-- A claim that finds the engine FREE, in the words of the statements (R129, R131). -/
theorem State.raiseClaim_accepted_free (h : s.map.engine = none) (a : Word) :
    ((s.setPort p Q).accept op v).raiseClaim p a = { s.setPort p Q with
      win := { s.win with result := ⟨op, .accepted, v⟩ }
      map := { s.map with engine := some (.taken (.port p) a p Q.window) } } := by
  rw [State.raiseClaim_free p a (by simpa using h), State.takeClaim_eq, State.accept_port, State.port_setPort_same]
  rfl

/-- A claim that finds a patch in flight, in the words of the statements (R131). -/
theorem State.raiseClaim_accepted_waits (h : s.map.engine ≠ none) (a : Word) :
    ((s.setPort p Q).accept op v).raiseClaim p a = { s.setPort p Q with
      win := { s.win with result := ⟨op, .accepted, v⟩ }
      map := { s.map with waiting := s.map.waiting.insert p } } := by
  rw [State.raiseClaim_waits p a (by simpa using h)]
  rfl

end

/-! ### WITHDRAW of a queued record (R34, R35) -/

/-- WITHDRAW passes over a record that has ended or has another TAG (R34). -/
theorem Slot.chosenBy_eq_false_iff (tag : BitVec 16) (slot : Slot) :
    slot.chosenBy tag = false ↔ slot.stage = .ended ∨ slot.record.tag ≠ tag := by
  simp only [Slot.chosenBy, Bool.and_eq_false_iff, bne_eq_false_iff_eq, beq_eq_false_iff_ne, ne_eq]

section
variable {s : State} {p : PortId} {tag : BitVec 16}

theorem State.withdraw_noMatch (hst : (s.port p).state ≠ .resetting)
    (h : ∀ slot ∈ (s.port p).queue, slot.chosenBy tag = false) : s.withdraw p tag = s.refuseAt 2 .noMatch p := by
  have hfind : (s.port p).queue.findIdx? (Slot.chosenBy tag) = none := List.findIdx?_eq_none_iff.mpr h
  simp [State.withdraw, hst, hfind]

/-- WITHDRAW reaches the first record that it may choose: a current one, or a queued one that leaves its queue unless that
would join an open message to the records behind it (R34 to R36). -/
theorem State.withdraw_chosen {before after : List Slot} {slot : Slot} (hst : (s.port p).state ≠ .resetting)
    (hq : (s.port p).queue = before ++ slot :: after) (hbefore : ∀ x ∈ before, x.chosenBy tag = false)
    (hslot : slot.chosenBy tag = true) :
    s.withdraw p tag =
      if slot.stage = .current then s.withdrawCurrent p slot.record
      else if (s.port p).removalRefused before.length slot.record then s.refuseAt 2 .openMessage p
      else ((s.setPort p { s.port p with queue := before ++ after }).accept 2 8).serveIdle p := by
  have hfind : (s.port p).queue.findIdx? (Slot.chosenBy tag) = some before.length := by
    rw [hq, List.findIdx?_append, List.findIdx?_eq_none_iff.mpr hbefore]
    simp [List.findIdx?_cons, hslot]
  have hget : (s.port p).queue[before.length]? = some slot := by simp [hq]
  have herase : (s.port p).queue.eraseIdx before.length = before ++ after := by
    rw [hq, List.eraseIdx_append_of_length_le le_rfl]
    simp
  unfold State.withdraw
  rw [if_neg hst, hfind]
  simp only [hget, State.modPort_eq, herase]

end

/-- The message is open just before the record behind `before`: by the port's flags at the head of the queue, and by the
record ahead behind it (R35). -/
theorem Port.openBefore_iff {P : Port} {before after : List Slot} {slot : Slot} (hq : P.queue = before ++ slot :: after) :
    P.openBefore before.length = true ↔
      (before = [] ∧ (P.msgOpen = true ∨ P.skip = true)) ∨ ∃ ahead ∈ before.getLast?, ahead.record.work.cont = true := by
  rcases List.eq_nil_or_concat before with rfl | ⟨init, last, rfl⟩
  · simp [Port.openBefore, Port.messageOpen]
  · simp [Port.openBefore, hq]

theorem Port.removalRefused_iff {P : Port} {before after : List Slot} {r : Record} {stage : Stage}
    (hq : P.queue = before ++ ⟨r, stage⟩ :: after) :
    P.removalRefused before.length r = true ↔
      r.work.dir ≠ none ∧ r.work.cont = false ∧ P.openBefore before.length = true ∧ after ≠ [] := by
  have hlast : before.length + 1 < P.queue.length ↔ after ≠ [] := by
    rw [hq, List.length_append, List.length_cons, ← List.length_pos_iff]
    omega
  simp [Port.removalRefused, Work.isData, Option.isSome_iff_ne_none, hlast, and_assoc]

/-- Settles O17: the record chosen stands behind records that are all passed over. -/
theorem withdrawRemovesQueued : Obligations.WithdrawRemovesQueued := by
  unfold Obligations.WithdrawRemovesQueued
  intro port p tag s hp hs hst P passedOver
  refine ⟨fun h => ?noMatch, ?queued⟩
  case noMatch =>
    rw [exec_withdraw hp hs tag,
      State.withdraw_noMatch hst fun slot hslot => (slot.chosenBy_eq_false_iff tag).mpr (h slot hslot)]
    rfl
  case queued =>
    intro before after r hq htag hbefore openBefore joins
    have hexec := (exec_withdraw hp hs tag).trans (congrArg _ (State.withdraw_chosen hst hq
      (fun slot hslot => (slot.chosenBy_eq_false_iff tag).mpr (hbefore slot hslot)) (by simp [Slot.chosenBy, htag])))
    rw [if_neg (by simp)] at hexec
    have hjoins : P.removalRefused before.length r = true ↔ joins :=
      (Port.removalRefused_iff hq).trans (by rw [Port.openBefore_iff hq])
    refine ⟨fun hj => ?joins, fun hj hidle => ?leaves⟩
    case joins =>
      rw [hexec, if_pos (hjoins.mpr hj)]
      rfl
    case leaves =>
      rw [hexec, if_neg (mt hjoins.mp hj)]
      by_cases hi : P.state = .idle
      · obtain ⟨hhead, hdir⟩ := hidle hi
        have hdirLine : (if P.resync && P.attached then .inbound else P.dirLine) = P.dirLine := by
          split
          next hd =>
            obtain ⟨hresync, hattached⟩ := Bool.and_eq_true_iff.mp hd
            exact (hdir hattached hresync).symm
          next => rfl
        have hwaits : ({ P with queue := before ++ after } : Port).HeadWaits := fun slot hslot => by
          obtain ⟨hd, hstage, hwait⟩ := hhead slot hslot
          exact ⟨hstage, hd, hwait⟩
        rw [State.serveIdle_of_idle (by simpa using hi), State.serve_accepted_waits s 2 8 (Q := { P with queue := before ++ after }) hi hwaits]
        simp only [hdirLine]
        rfl
      · rw [State.serveIdle_of_not_idle (by simpa using hi)]
        rfl

/-! ### ENABLE (R27) -/

theorem State.enablePort_taken {s : State} {p : PortId} (h : (s.port p).state = .disabled) :
    s.enablePort p = ((s.setPort p { s.port p with state := .idle }).accept 3 1).serve p := by
  simp [State.enablePort, h, State.modPort_eq, PortState.code]

/-- Settles O19: the port is IDLE when its head is examined. -/
theorem enableTaken : Obligations.EnableTaken := by
  unfold Obligations.EnableTaken
  intro port p s hp hs hst hqueued P win
  have hexec := (exec_enable hp hs).trans (congrArg _ (State.enablePort_taken hst))
  refine ⟨fun h => ?waits, fun r rest hq => ⟨fun d hd ha hr hskip hburst => ?serves, fun a hw hr => ?claims⟩⟩
  case waits =>
    have hwaits : ({ P with state := .idle } : Port).HeadWaits := fun slot hslot =>
      ⟨hqueued slot (List.mem_of_mem_head? hslot), h slot hslot⟩
    rw [hexec, State.serve_accepted_waits s 3 1 rfl hwaits]
    rfl
  case serves =>
    have hhead : ({ P with state := .idle } : Port).TakesHead (P.serving r rest d) :=
      .serves hq hd ha hr hskip hburst
    rw [hexec, State.serve_of_takesHead (Q' := P.serving r rest d) (by simpa using hhead) (by simp)
      (.inr (by simpa using hskip)), State.accept_setPort, State.setPort_setPort]
    rfl
  case claims =>
    rw [hexec, State.serve_accepted_claims s 3 1 (Q := { P with state := .idle }) rfl hq hw hr]
    exact ⟨fun he => congrArg _ (State.raiseClaim_accepted_free s 3 1 he a),
      fun he => congrArg _ (State.raiseClaim_accepted_waits s 3 1 he a)⟩

/-! ### The resumes (R30, R31) -/

/-- Nothing begins at a port with its burst open and RESYNC clear. -/
theorem Port.settle_of_burstOpen {P : Port} (h : P.burstOpen = true) (hrs : P.resync = false) : P.settle = P := by
  have hready : P.readyForBurst = false := by
    have hphase : P.phase ≠ .waiting := by rintro hw; simp [Port.burstOpen, hw] at h
    simp [Port.readyForBurst, hphase]
  cases hc : P.currentData with
  | none => exact Port.settle_of_none hc (by simp [Port.discards, hrs])
  | some w => exact Port.settle_of_not_ready hc hready

/-- A port that is not IDLE, and at which nothing begins, is served without effect. -/
theorem State.serve_of_settled {s : State} {p : PortId} (hi : (s.port p).state ≠ .idle)
    (h : (s.port p).settle = s.port p) : s.serve p = s := by
  rw [State.serve_of_not_idle hi, State.modPort_eq, h, State.setPort_port]

theorem State.serve_accepted_settled (s : State) {p : PortId} {Q : Port} (op : BitVec 4) (v : Nat)
    (hi : Q.state ≠ .idle) (h : Q.settle = Q) : ((s.setPort p Q).accept op v).serve p = (s.setPort p Q).accept op v :=
  State.serve_of_settled (by simpa using hi) (by simpa using h)

section
variable {s : State} {p : PortId} (op : BitVec 4) (halted : Port → Port)

theorem State.resumePort_held {r : Record} {rest : List Slot} (h : (s.port p).state = .paused)
    (hq : (s.port p).queue = ⟨r, .current⟩ :: rest) :
    s.resumePort op halted p = ((s.resumeHeld p r).accept op 2).serve p := by
  have hc : (s.port p).current = some r := by simp [Port.current, hq]
  simp [State.resumePort, h, hc, PortState.code]

theorem State.resumePort_returns (h : (s.port p).state = .paused) (hc : (s.port p).current = none) :
    s.resumePort op halted p = ((s.setPort p { s.port p with state := .idle }).accept op 1).serve p := by
  simp [State.resumePort, h, hc, State.modPort_eq, PortState.code]

theorem State.resumePort_cancels (h : (s.port p).state = .running) (hpp : (s.port p).pausePending = true) :
    s.resumePort op halted p = ((s.setPort p { s.port p with pausePending := false }).accept op 2).serve p := by
  simp [State.resumePort, h, hpp, State.modPort_eq, PortState.code]

theorem State.resumePort_halted (h : (s.port p).state = .halted) :
    s.resumePort op halted p = ((s.setPort p { halted (s.port p) with state := .idle }).accept op 1).serve p := by
  simp [State.resumePort, h, State.modPort_eq, PortState.code]

end

theorem State.resumeHeld_data (s : State) (p : PortId) {r : Record} (hd : r.work.dir ≠ none) :
    s.resumeHeld p r = s.setPort p { s.port p with state := .running, stallTimer := some 0 } := by
  unfold State.resumeHeld
  split
  next hw => exact absurd (by rw [hw]; rfl) hd
  next hw => exact absurd (by rw [hw]; rfl) hd
  all_goals exact s.modPort_eq p _

theorem State.resumeHeld_patch (s : State) (p : PortId) {r : Record} {a : Word} (hw : r.work = .patch a) :
    s.resumeHeld p r = (s.setPort p { s.port p with state := .running }).raiseClaim p a := by
  simp [State.resumeHeld, hw, State.modPort_eq]

/-- A claim and RESULT are written in either order. -/
theorem State.accept_raiseClaim (s : State) (p : PortId) (a : Word) (op : BitVec 4) (v : Nat) :
    (s.raiseClaim p a).accept op v = (s.accept op v).raiseClaim p a := by
  by_cases he : s.map.engine = none
  · rw [State.raiseClaim_free p a he, State.raiseClaim_free p a (by simpa using he)]
    rfl
  · rw [State.raiseClaim_waits p a he, State.raiseClaim_waits p a (by simpa using he)]
    rfl

/-- In HALTED RESUME-RECORD (opcode 6) keeps the message flags and RESUME-MESSAGE (opcode 7) sets SKIP in place of MSG-OPEN
(R30, R31). -/
def Port.haltResumed (op : BitVec 4) (P : Port) : Port :=
  { P with msgOpen := P.msgOpen && op == 6, skip := P.skip || (P.msgOpen && op == 7) }

theorem Port.haltResumed_record (P : Port) : P.haltResumed 6 = P := by
  simp [Port.haltResumed]

theorem Port.haltResumed_message (P : Port) : P.haltResumed 7 = P.skipMessage := by
  obtain ⟨state, queue, msgOpen⟩ := P
  cases msgOpen <;> simp [Port.haltResumed, Port.skipMessage, Port.setSkip]

/-- The two resumes differ in HALTED alone. -/
theorem exec_resume {c : Instr} {op port : BitVec 4} {p : PortId} {s : State}
    (hc : (c = .resumeRecord port ∧ op = 6) ∨ (c = .resumeMessage port ∧ op = 7)) (hp : port.toNat = p.val)
    (hs : s.Ready) : exec c s = .next (s.resumePort op (Port.haltResumed op) p) := by
  rcases hc with ⟨rfl, rfl⟩ | ⟨rfl, rfl⟩
  · rw [exec_resumeRecord hp hs, show Port.haltResumed 6 = id from funext Port.haltResumed_record]
  · rw [exec_resumeMessage hp hs, show Port.haltResumed 7 = Port.skipMessage from funext Port.haltResumed_message]

/-- Settles O22, state by state. -/
theorem resumeTaken : Obligations.ResumeTaken := by
  unfold Obligations.ResumeTaken
  intro c op port p s hc hp hs P result discards headWaits
  have hexec := exec_resume hc hp hs
  refine ⟨fun hst r rest hq => ?held, fun hst hwaits => ?returns, fun hst hpp hb hrs => ?cancels,
    fun hst hwaits => ?halted⟩
  case held =>
    rw [State.resumePort_held op _ hst hq] at hexec
    have claims : ∀ {a : Word}, r.work = .patch a → P.resync = false → exec c s =
        .next (((s.setPort p { P with state := .running }).accept op 2).raiseClaim p a) := fun hw hrs => by
      rw [hexec, State.resumeHeld_patch s p hw, State.accept_raiseClaim]
      refine congrArg _ (State.serve_of_settled (by simp) ?_)
      simpa using Port.settle_of_patch (P := { P with state := .running }) hq hw hrs
    refine ⟨fun hd hburst => ?data, fun a hw he hrs => ?free, fun a hw he hrs => ?engaged⟩
    case data =>
      rw [hexec, State.resumeHeld_data s p hd]
      exact congrArg _ (State.serve_accepted_settled s op 2 (by simp)
        (Port.settle_of_serving (P := { P with state := .running, stallTimer := some 0 }) hq hd
          (hburst.imp_right fun hrdy => by simp [Port.readyForBurst, hrdy])))
    case free => exact (claims hw hrs).trans (congrArg _ (State.raiseClaim_accepted_free s op 2 he a))
    case engaged => exact (claims hw hrs).trans (congrArg _ (State.raiseClaim_accepted_waits s op 2 he a))
  case returns =>
    rw [hexec, State.resumePort_returns op _ hst (Port.HeadWaits.current (P := P) hwaits),
      State.serve_accepted_waits s op 1 (Q := { P with state := .idle }) rfl hwaits]
    rfl
  case cancels =>
    have hsettle : ({ P with pausePending := false } : Port).settle = { P with pausePending := false } := by
      rcases hb with hb | hb
      · exact Port.settle_of_burstOpen hb hrs
      · obtain ⟨r, rest, hq, hw⟩ := P.currentPatch_isSome_iff.mp (Option.isSome_iff_ne_none.mpr hb)
        exact Port.settle_of_patch hq hw hrs
    rw [hexec, State.resumePort_cancels op _ hst hpp]
    exact congrArg _ (State.serve_accepted_settled s op 2 (ne_of_eq_of_ne hst (by decide)) hsettle)
  case halted =>
    rw [hexec, State.resumePort_halted op _ hst,
      State.serve_accepted_waits s op 1 (Q := { P.haltResumed op with state := .idle }) rfl hwaits]
    rfl

end Sys2Proof.Machine
end

section
/-! Records that retire by a command (R23, R36, R57, R58): WITHDRAW of the current record, and a POST whose record retires as it
becomes current. -/

namespace Sys2Proof.Machine

/-! ### WITHDRAW of the current record (R36, R40, R55) -/

section
variable {s : State} {p : PortId} {r : Record}

theorem State.accept_retire (s : State) (p : PortId) (st : Status) (needed : Bool) (rep : Report) (op : BitVec 4)
    (v : Nat) : (s.retire p st needed rep).accept op v = (s.accept op v).retire p st needed rep := by
  unfold State.retire
  rw [State.accept_reports]
  split_ifs <;> rfl

/-- The end of a record and RESULT are written in either order. -/
theorem State.accept_recordEnd (s : State) (p : PortId) (st : Status) (d : Detail) (op : BitVec 4) (v : Nat) :
    (s.recordEnd p st d).accept op v = (s.accept op v).recordEnd p st d := by
  unfold State.recordEnd
  rw [State.accept_port]
  split
  · rfl
  · exact State.accept_retire _ p st _ _ op v

theorem State.withdrawCurrent_pending (hd : r.work.dir ≠ none) (hb : (s.port p).burstOpen = true) :
    s.withdrawCurrent p r = (s.setPort p { s.port p with abortPending := true }).accept 2 10 := by
  simp [State.withdrawCurrent, Work.isData_of_dir hd, hb, State.modPort_eq]

theorem State.withdrawCurrent_aborts (hd : r.work.dir ≠ none) (hb : (s.port p).burstOpen = false) :
    s.withdrawCurrent p r = ((s.accept 2 9).recordEnd p .aborted .absent).serve p := by
  simp [State.withdrawCurrent, Work.isData_of_dir hd, hb, State.accept_recordEnd]

theorem State.withdrawCurrent_busy {a : Word} (hw : r.work = .patch a) (hf : s.patchInFlight p = true) :
    s.withdrawCurrent p r = s.refuseAt 2 .busy p := by
  simp [State.withdrawCurrent, hw, Work.isData, Work.dir, hf]

theorem State.withdrawCurrent_patch {a : Word} (hw : r.work = .patch a) (hf : s.patchInFlight p = false) :
    s.withdrawCurrent p r = (((s.withdrawClaim p).accept 2 9).recordEnd p .aborted .absent).serve p := by
  simp [State.withdrawCurrent, hw, Work.isData, Work.dir, hf, State.accept_recordEnd]

/-- The end of a PATCH record by an abort: a control record has no message (R57). -/
theorem State.recordEnd_abortedPatch {rest : List Slot} {a : Word} (hq : (s.port p).queue = ⟨r, .current⟩ :: rest)
    (hw : r.work = .patch a) :
    { s with map := s.map.leaveFence p }.Retires p (s.port p).recordGone r
      (.record p .aborted r.tag 0 false 0 r.urgent .absent) (.next ((s.recordEnd p .aborted .absent).serve p)) := by
  have hdir : r.work.dir = none := by rw [hw]; rfl
  have hdata : r.work.isData = false := by simp [Work.isData, hdir]
  have hends : (((s.port p).setLatch none).endBurst).endEffects r .aborted = ((s.port p).setLatch none).endBurst := by
    simp [Port.endEffects, hdata]
  refine State.recordEnd_retires hq (by simp [hw]) rfl (.inl rfl) ?gone ?queue ?state ?report <;> rw [hends]
  case gone => simp [Port.recordGone, Port.endBurst, Port.setLatch, hq]
  case queue => rfl
  case state => rfl
  case report => simp [Port.recordReport, hdata, hdir]

end

/-- Settles O18: the current record stands at the head of the queue. -/
theorem withdrawCurrent : Obligations.WithdrawCurrent := by
  unfold Obligations.WithdrawCurrent
  intro port p s r rest hp hs hst hq P result
  have hexec := (exec_withdraw hp hs r.tag).trans (congrArg _ (State.withdraw_chosen (before := []) hst hq (by simp)
    (by simp [Slot.chosenBy])))
  rw [if_pos rfl] at hexec
  refine ⟨fun hd hb => ?pending, fun a hw hf => ?busy, fun hb _ => ⟨fun a hw hf => ?patch, fun hd => ?data⟩⟩
  case pending =>
    rw [hexec, State.withdrawCurrent_pending hd hb]
    rfl
  case busy =>
    have hcurrent : P.currentPatch.isSome = true := by rw [Port.currentPatch_of_queue hq hw]; rfl
    rw [hexec, State.withdrawCurrent_busy hw ((s.patchInFlight_iff p).mpr ⟨hf, hcurrent⟩)]
    rfl
  case patch =>
    have hfree : s.patchInFlight p = false := Bool.eq_false_iff.mpr fun hflight => by
      obtain ⟨⟨f, hmem, horigin, -⟩, -⟩ := (s.patchInFlight_iff p).mp hflight
      exact hf f hmem horigin
    rw [hexec, State.withdrawCurrent_patch hw hfree]
    exact State.recordEnd_abortedPatch (s := (s.withdrawClaim p).accept 2 9) hq hw
  case data =>
    rw [hexec, State.withdrawCurrent_aborts (by simp [hd]) hb]
    exact State.recordEnd_aborted (s := s.accept 2 9) hq hd

/-! ### A record that retires as it becomes current (R23, R57, R58) -/

/-- The context at the end of its current record, before the retirement (R59 steps 1 and 2). -/
def Port.atEnd (r : Record) (st : Status) (P : Port) : Port := ((P.setLatch none).endBurst).endEffects r st

/-- A port's context changed after its latch is dropped (R118, R120). -/
theorem State.modPort_dropLatch (s : State) (p : PortId) (f : Port → Port) :
    (s.dropLatch p).modPort p f =
      { s.setPort p (f ((s.port p).setLatch none)) with map := s.map.leaveFence p } := by
  rw [State.modPort_eq, State.dropLatch_port_same]
  simp [State.dropLatch, State.modPort, State.setPort]

/-- A record end whose report, if it needs one, finds a free entry (R59 to R61). -/
theorem State.recordEnd_completes {s : State} {p : PortId} {r : Record} (hcur : (s.port p).current = some r)
    (hfree : s.reports.entries.length < 32) (st : Status) (d : Detail) :
    s.recordEnd p st d = { s.setPort p (((s.port p).atEnd r st).completeRetirement st) with
      map := s.map.leaveFence p
      reports := if r.needsReport st then s.reports.post (((s.port p).atEnd r st).recordReport p r st d)
        else s.reports } := by
  rw [State.recordEnd_eq hcur]
  cases r.needsReport st with
  | false =>
    rw [State.retire_unreported, State.modPort_modPort, State.modPort_dropLatch]
    rfl
  | true =>
    rw [State.retire_posted (by simpa using hfree), State.modPort_modPort, State.modPort_dropLatch]
    rfl

/-- A record whose words have not moved reports none (Table 3-4). -/
theorem Port.recordReport_unmoved {P : Port} {st : Status} (hst : st ≠ .done) (hmoved : P.moved = 0)
    (hend : P.endTaken = false) (hrepeats : P.repeats = 0) (p : PortId) (r : Record) (d : Detail) :
    P.recordReport p r st d = .record p st r.tag 0 false 0 r.urgent d := by
  cases hdir : r.work.dir with
  | none => simp [Port.recordReport, hmoved, hdir]
  | some dir => cases dir <;> simp [Port.recordReport, hmoved, hend, hrepeats, hdir, hst]

/-- The context of a port whose one record retired as it became current, with the message flags that it leaves (R23). -/
def Port.retiredAtOnce (P : Port) (skip words ended : Bool) : Port :=
  { P with
    skip := skip, wordsPassed := words, endPassed := ended
    moved := 0, position := 0, burstStart := 0, repeats := 0, burstLength := 0, exchanged := 0
    endTaken := false, inHand := none, lookupRequest := false, cut := none, phase := .none, stallTimer := none
    latch := none, heldReport := none, abortPending := false }

/-- The one record of an IDLE port that retires as it becomes current: the report that it needs is posted, and with no record
left and RESYNC clear nothing more begins (R23, R60, R61). -/
theorem State.serve_of_instant {s : State} {p : PortId} {r : Record} {st : Status} {P' : Port}
    (hi : (s.port p).state = .idle) (hq : (s.port p).queue = [⟨r, .queued⟩])
    (hmay : (s.port p).mayBecomeCurrent r = true) (hinstant : (s.port p).instantStatus r = some st)
    (hfree : s.reports.entries.length < 32)
    (hP' : (((s.port p).takeUp r []).atEnd r st).completeRetirement st = P') (hq' : P'.queue = [])
    (hrs : P'.resync = false) :
    s.serve p = { s.setPort p P' with
      map := s.map.leaveFence p
      reports := if r.needsReport st then
          s.reports.post ((((s.port p).takeUp r []).atEnd r st).recordReport p r st .absent)
        else s.reports } := by
  have hcur : ((s.setPort p ((s.port p).takeUp r [])).port p).current = some r := by
    rw [State.port_setPort_same, Port.current, Port.takeUp_queue]
  have hend := State.recordEnd_completes hcur hfree st .absent
  rw [State.port_setPort_same, hP', State.setPort_setPort] at hend
  have hexamine : s.examine p = (s.setPort p ((s.port p).takeUp r [])).recordEnd p st .absent := by
    have hport : ((s.setPort p ((s.port p).takeUp r [])).recordEnd p st .absent).port p = P' := by
      rw [hend]; simp [State.port_mk]
    simp only [State.examine, State.examineFuel, hi, hq, hmay, hinstant, hport, hq', if_true, ite_self, List.length_cons]
  have hsettle : P'.settle = P' :=
    Port.settle_of_none (Port.currentData_of_queued (by simp [hq'])) (by simp [Port.discards, hrs])
  rw [State.serve, hexamine, hend, State.modPort_eq]
  exact State.setPort_of_port (by simp [State.port_mk, hsettle])

/-- A retirement that completes leaves the progress of its record. -/
theorem Port.completeRetirement_progress (st : Status) (P : Port) :
    (P.completeRetirement st).moved = P.moved ∧ (P.completeRetirement st).endTaken = P.endTaken ∧
      (P.completeRetirement st).repeats = P.repeats := by
  unfold Port.completeRetirement
  dsimp only
  split_ifs <;> exact ⟨rfl, rfl, rfl⟩

section
variable {P : Port} {r : Record}

/-- A MARK leaves the message flags (R57). -/
theorem Port.retiredAtOnce_marked (hi : P.state = .idle) (hq : P.queue = []) (hpp : P.pausePending = false)
    (hm : r.work = .mark) :
    (((P.append r).takeUp r []).atEnd r .marked).completeRetirement .marked =
      P.retiredAtOnce P.skip P.wordsPassed P.endPassed := by
  simp [Port.append, Port.atEnd, Port.takeUp, hm, Work.dir, Port.endEffects, Work.isData, Port.completeRetirement, Status.isError, hpp,
    Port.endBurst, Port.setLatch, Port.retiredAtOnce, hi, hq]

/-- A skipped record with CONTINUE clear closes its message, and SKIP with it (R19, R58). -/
theorem Port.retiredAtOnce_skipped (hi : P.state = .idle) (hq : P.queue = []) (hpp : P.pausePending = false)
    (hmo : P.msgOpen = false) (hs : P.skip = true) (hd : r.work.dir ≠ none) :
    (((P.append r).takeUp r []).atEnd r .skipped).completeRetirement .skipped =
      P.retiredAtOnce r.work.cont (P.wordsPassed && r.work.cont) (P.endPassed && r.work.cont) := by
  obtain ⟨d, hd'⟩ := Option.ne_none_iff_exists'.mp hd
  cases hc : r.work.cont <;>
    simp [Port.append, Port.atEnd, Port.takeUp, hd', hs, Port.endEffects, Work.isData_of_dir hd, Port.messageEffects,
      Status.cutsMessage, Port.endSetsSkip, hc, Port.closeMessage, Port.completeRetirement, Status.isError, hpp,
      Port.endBurst, Port.setLatch, Port.retiredAtOnce, hmo, hi, hq]

end

/-- A POST, at an IDLE port with an empty queue, of a record that retires as it becomes current (R12, R22, R23). -/
theorem exec_post_instant {s : State} {port : BitVec 4} {p : PortId} {r : Record} {st : Status} {skip words ended : Bool}
    (hp : port.toNat = p.val) (hs : s.Ready) (hi : (s.port p).state = .idle) (hq : (s.port p).queue = [])
    (hrs : (s.port p).resync = false) (hr : stagedRecord s.win = some r) (ha : r.Accepted)
    (hpm : (s.port p).Permits r.work) (ht : (s.port p).TailTakes r.work) (hquota : 1 ≤ (s.port p).config.queueQuota)
    (ho : s.occupied < 64) (hfree : s.reports.entries.length < 32) (hst : st ≠ .done)
    (hmay : (s.port p).mayBecomeCurrent r = true) (hinstant : (s.port p).instantStatus r = some st)
    (hretired : ((((s.port p).append r).takeUp r []).atEnd r st).completeRetirement st =
      (s.port p).retiredAtOnce skip words ended) :
    exec (.post port) s = .next { s.setPort p ((s.port p).retiredAtOnce skip words ended) with
      win := { s.win with result := ⟨1, .accepted, 1⟩ }
      map := s.map.leaveFence p
      reports := if r.needsReport st then s.reports.post (.record p st r.tag 0 false 0 r.urgent .absent)
        else s.reports } := by
  have hlen : (s.port p).queue.length = 0 := by simp [hq]
  have hexec := exec_post_accepted hp hs (by rw [hi]; decide) hr ha hpm ht (by omega) ho
  generalize hs' : (s.modPort p (Port.append r)).accept 1 ((s.port p).queue.length + 1) = s' at hexec
  have hport : s'.port p = (s.port p).append r := by subst hs'; simp
  have hserve := State.serve_of_instant (s := s') (r := r) (P' := (s.port p).retiredAtOnce skip words ended)
    (by rw [hport]; exact hi) (by simp [hport, Port.append, hq]) (by rw [hport]; exact hmay)
    (by rw [hport]; exact hinstant) (by subst hs'; simpa using hfree) (by rw [hport]; exact hretired) hq hrs
  obtain ⟨hmoved, hend, hrepeats⟩ := Port.completeRetirement_progress st
    ((((s.port p).append r).takeUp r []).atEnd r st)
  rw [hretired] at hmoved hend hrepeats
  rw [hport, Port.recordReport_unmoved hst hmoved.symm hend.symm hrepeats.symm] at hserve
  rw [State.serveIdle_of_idle (by rw [hport]; exact hi), hserve] at hexec
  subst hs'
  rw [hexec, State.accept_setPort, State.modPort_eq, State.setPort_setPort, hlen]
  rfl

/-- Settles O15: the record posted is the one head that the IDLE port examines. -/
theorem postedRecordRetiresAtOnce : Obligations.PostedRecordRetiresAtOnce := by
  unfold Obligations.PostedRecordRetiresAtOnce
  intro port p s r hp hs hi hq hpp hmo hrs hr ha hquota ho hfree P retires
  have of_exec : ∀ {st : Status} {posted skip words ended : Bool},
      exec (.post port) s = .next { s.setPort p (P.retiredAtOnce skip words ended) with
        win := { s.win with result := ⟨1, .accepted, 1⟩ }
        map := s.map.leaveFence p
        reports := if posted then s.reports.post (.record p st r.tag 0 false 0 r.urgent .absent)
          else s.reports } → retires st posted skip words ended := fun h =>
    ⟨_, h, s.port_setPort_same p _, rfl, rfl, rfl, fun q hqp => s.port_setPort_ne _ hqp, rfl, rfl, rfl, rfl, rfl⟩
  refine ⟨fun hm hskip => ?marked, fun hd hpm hskip hatt => ?skipped⟩
  case marked =>
    have hneeds : r.needsReport .marked = true := by simp [Record.needsReport, hm]
    have hexec := exec_post_instant hp hs hi hq hrs hr ha ⟨by simp [hm, Work.isMove], by simp [hm]⟩
      (.inl (.inr ⟨hq, hmo, hskip⟩)) hquota ho hfree (by decide)
      (by simp [Port.mayBecomeCurrent, hm, Work.isData, Work.dir]) (by simp [Port.instantStatus, hm])
      (Port.retiredAtOnce_marked hi hq hpp hm)
    rw [hneeds, show (s.port p).skip = false from hskip] at hexec
    exact of_exec hexec
  case skipped =>
    have hdir : r.work.dir ≠ none := by simp [hd]
    have hnm : r.work ≠ .mark := by rintro hm; simp [hm, Work.dir] at hd
    have hneeds : r.needsReport .skipped = r.reportAlways := by simp [Record.needsReport, Status.isError, hnm]
    have hmay : P.mayBecomeCurrent r = true := by simp [Port.mayBecomeCurrent, hatt, P, hrs]
    have hinstant : P.instantStatus r = some .skipped := by
      simp [Port.instantStatus, hnm, Work.isData_of_dir hdir, hskip]
    have hexec := exec_post_instant hp hs hi hq hrs hr ha hpm (.inr ⟨_, hd, .inr ⟨hq, .inr hskip, rfl⟩⟩) hquota ho hfree
      (by decide) hmay hinstant (Port.retiredAtOnce_skipped hi hq hpp hmo hskip hdir)
    rw [hneeds] at hexec
    exact of_exec hexec

end Sys2Proof.Machine
end

section
/-! FLUSH and PORT RESET: the records of a port dropped at once (R32, R33, R37). -/

namespace Sys2Proof.Machine

/-! ### The broken message -/

/-- An open outbound message of which words but no END have passed (R33, R37). -/
theorem Port.openBroken_iff (P : Port) :
    (P.messageOpen && P.outboundBroken) = true ↔
      (P.msgOpen || P.skip) = true ∧ P.msgDir = .outbound ∧ P.wordsPassed = true ∧ P.endPassed = false := by
  simp [Port.messageOpen, Port.outboundBroken, and_assoc]

/-! ### FLUSH (R32, R33) -/

/-- FLUSH's repair and closing of the message, field by field (R33). -/
theorem Port.flushMessage_eq (P : Port) :
    P.flushMessage = { P with
      resync := P.resync || ((P.msgOpen || P.skip) && P.msgDir == .inbound && !P.endPassed)
      can := if (P.msgOpen || P.skip) = true ∧ P.msgDir = .outbound ∧ P.wordsPassed = true ∧ P.endPassed = false then
          some 0 else P.can
      msgOpen := false, skip := false, wordsPassed := false, endPassed := false } := by
  simp only [← P.openBroken_iff]
  show P.flushMessage = { P with
    resync := P.resync || (P.messageOpen && P.msgDir == .inbound && !P.endPassed)
    can := if (P.messageOpen && P.outboundBroken) = true then some 0 else P.can
    msgOpen := false, skip := false, wordsPassed := false, endPassed := false }
  unfold Port.flushMessage Port.closeMessage Port.driveCan
  dsimp only
  split
  next hin =>
    obtain ⟨⟨hopen, hdir⟩, hend⟩ : (P.messageOpen = true ∧ P.msgDir = .inbound) ∧ P.endPassed = false := by
      simpa using hin
    simp [hopen, hdir, hend, Port.outboundBroken]
  next hin => split <;> simp [Bool.eq_false_iff.mpr hin]

/-- A port with an empty queue, its records just dropped: resync discard turns DIR to INBOUND where it can run (R66, R82). -/
theorem Port.settle_of_empty {P : Port} (hq : P.queue = []) (hst : P.state ≠ .running) :
    P.settle = { P with
      dirLine := if (P.state = .idle ∨ P.state = .halted) ∧ P.resync = true ∧ P.attached = true then .inbound
        else P.dirLine } := by
  have hcurrent : P.currentData = none := Port.currentData_of_queued (by simp [hq])
  by_cases hrests : P.state = .idle ∨ P.state = .halted
  · rw [Port.settle_of_idle_or_halted hrests hcurrent]
    simp [hrests]
  · obtain ⟨hidle, hhalted⟩ := not_or.mp hrests
    rw [Port.settle_of_none hcurrent (by simp [Port.discards, hst, hidle, hhalted])]
    simp [hrests]

theorem State.serve_of_empty {s : State} {p : PortId} (hq : (s.port p).queue = []) :
    s.serve p = s.setPort p (s.port p).settle := by
  rw [State.serve_of_examine (State.examine_of_empty hq), State.modPort_eq]

/-- A FLUSH that dropped records posts one PORT report (R32). -/
theorem State.postFlushed_eq (s : State) (p : PortId) (n : Nat) :
    s.postFlushed p n = { s with reports := if n = 0 then s.reports else s.reports.post (.flushed p n) } := by
  unfold State.postFlushed
  split <;> rfl

/-- The context that a FLUSH leaves before what can begin begins. -/
def Port.flushed (P : Port) : Port := ((P.setLatch none).dropQueue).flushMessage

theorem Port.flushed_eq (P : Port) :
    P.flushed = { P with
      queue := [], phase := .none, inHand := none, lookupRequest := false, cut := none, stallTimer := none
      abortPending := false, latch := none
      resync := P.resync || ((P.msgOpen || P.skip) && P.msgDir == .inbound && !P.endPassed)
      can := if (P.msgOpen || P.skip) = true ∧ P.msgDir = .outbound ∧ P.wordsPassed = true ∧ P.endPassed = false then
          some 0 else P.can
      msgOpen := false, skip := false, wordsPassed := false, endPassed := false } :=
  Port.flushMessage_eq _

theorem Port.flushed_queue (P : Port) : P.flushed.queue = [] := congrArg Port.queue P.flushed_eq

/-- FLUSH at a port that takes it, RESULT and the report for the records dropped with it (R32). -/
theorem State.flushTaken_eq (s : State) (p : PortId) :
    s.flushTaken p = { s.setPort p (s.port p).flushed.settle with
      win := { s.win with result := ⟨8, .accepted, (s.port p).queue.length⟩ }
      map := s.map.leaveFence p
      reports := if (s.port p).queue.length = 0 then s.reports
        else s.reports.post (.flushed p (s.port p).queue.length) } := by
  unfold State.flushTaken
  dsimp only
  rw [State.modPort_dropLatch, State.postFlushed_eq, State.serve_of_empty]
  · simp [State.port_mk, State.accept, State.setPort, Port.flushed]
  · exact (congrArg Port.queue (s.port_setPort_same p _)).trans (s.port p).flushed_queue

/-- FLUSH with a free entry for the report that it needs (R32). -/
theorem State.flushPort_taken {s : State} {p : PortId}
    (hst : (s.port p).state = .disabled ∨ (s.port p).state = .idle ∨ (s.port p).state = .paused ∨
      (s.port p).state = .halted)
    (hfree : (s.port p).queue = [] ∨ s.reports.entries.length < 32) : s.flushPort p = s.flushTaken p := by
  have hroom : ¬((s.port p).queue ≠ [] ∧ s.reports.full = true) := by
    rintro ⟨hne, hfull⟩
    exact hfree.elim hne (Nat.not_lt.mpr (by simpa [ReportQueue.full] using hfull))
  rcases hst with hst | hst | hst | hst <;> simp only [State.flushPort, hst, if_neg hroom]

theorem State.flushPort_reportFull {s : State} {p : PortId}
    (hst : (s.port p).state = .disabled ∨ (s.port p).state = .idle ∨ (s.port p).state = .paused ∨
      (s.port p).state = .halted)
    (hne : (s.port p).queue ≠ []) (hfull : 32 ≤ s.reports.entries.length) :
    s.flushPort p = s.refuseAt 8 .reportFull p := by
  have hroom : (s.port p).queue ≠ [] ∧ s.reports.full = true := ⟨hne, by simpa [ReportQueue.full] using hfull⟩
  rcases hst with hst | hst | hst | hst <;> simp only [State.flushPort, hst, if_pos hroom]

/-- Settles O23. -/
theorem flushTaken : Obligations.FlushTaken := by
  unfold Obligations.FlushTaken
  intro port p s hp hs P count hst
  refine ⟨fun hne hfull => ?reportFull, fun hfree => ?taken⟩
  case reportFull =>
    rw [exec_flush hp hs, State.flushPort_reportFull hst hne hfull]
    rfl
  case taken =>
    have hrun : P.flushed.state ≠ .running := by
      rw [P.flushed_eq]
      intro (h : P.state = .running)
      simp [h] at hst
    rw [exec_flush hp hs, State.flushPort_taken hst hfree, State.flushTaken_eq,
      Port.settle_of_empty (P := P.flushed) P.flushed_queue hrun, P.flushed_eq]

/-! ### PORT RESET (R37) -/

/-- A reset port (R37): the power-on context but for its state, CONFIG, WINDOW, the input levels and CAN. -/
theorem Port.reset_eq (st : PortState) (p : PortId) (P : Port) :
    P.reset st = { State.reset.port p with
      state := st, config := P.config, window := P.window, attached := P.attached
      attLine := P.attLine, rdyLine := P.rdyLine
      can := if (P.msgOpen = true ∨ P.skip = true) ∧ P.msgDir = .outbound ∧ P.wordsPassed = true ∧
        P.endPassed = false then some 0 else none } := by
  have hpower : State.reset.port p = Port.powerOn := by simp [State.port, State.reset]
  simp only [hpower, ← Bool.or_eq_true, ← P.openBroken_iff]
  rfl

/-- The map unit that a port leaves at its reset: out of the fence set and the waiting claims, its patch disowned (R120, R131,
R136, R139). -/
theorem MapUnit.leaveFence_disownPatch (m : MapUnit) (p : PortId) :
    ({ m.leaveFence p with waiting := (m.leaveFence p).waiting.erase p } : MapUnit).disownPatch p =
      { m.leaveFence p with
        waiting := m.waiting.erase p
        engine := m.engine.map fun f => if f.origin = .port p then { f with owned := false } else f } := by
  have hwaiting : (m.leaveFence p).waiting = m.waiting := by rw [m.leaveFence_eq p]
  have hengine : (m.leaveFence p).engine = m.engine := by rw [m.leaveFence_eq p]
  simp only [MapUnit.disownPatch, hwaiting, hengine]

/-- PORT RESET of a port that is not RESETTING already (R37). -/
theorem State.resetPort_taken {s : State} {p : PortId} (h : (s.port p).state ≠ .resetting) :
    s.resetPort p = ({ s.setPort p ((s.port p).reset (s.stateAfterReset p)) with
      map := ({ s.map.leaveFence p with waiting := (s.map.leaveFence p).waiting.erase p } : MapUnit).disownPatch p
      reports := { s.reports with blocked := s.reports.blocked.filter fun q => q != p } } : State).accept 9
        (s.stateAfterReset p).code := by
  rw [State.resetPort, if_neg h]
  dsimp only
  rw [State.modPort_eq, State.withdrawClaim_port, State.dropLatch_port_same]
  simp [State.dropLatch, State.withdrawClaim, State.modPort, State.setPort, Port.reset, Port.setLatch,
    Port.messageOpen, Port.outboundBroken]

/-- Settles O24, block by block. -/
theorem portResetTaken : Obligations.PortResetTaken := by
  unfold Obligations.PortResetTaken
  intro port p s hp hs hst P next
  have hexec := (exec_portReset hp hs).trans (congrArg _ (State.resetPort_taken hst))
  refine ⟨_, hexec, ?port, fun q hqp => s.port_setPort_ne _ hqp, rfl, ?reports, ?map, rfl, rfl, rfl, rfl, rfl⟩
  case port => exact (s.port_setPort_same p _).trans (Port.reset_eq next p P)
  case reports =>
    have hfilter : s.reports.blocked.filter (fun q => q != p) = s.reports.blocked.filter (· ≠ p) :=
      List.filter_congr fun q _ => by rw [Bool.eq_iff_iff]; simp
    exact congrArg (fun blocked => { s.reports with blocked := blocked }) hfilter
  case map => exact s.map.leaveFence_disownPatch p

end Sys2Proof.Machine
end

section
/-! The end of an inbound record at its last word (R50, R51, R94): a MOVE's with the write of that word, a DRAIN's as the word
is taken. Both count the word and come to `State.afterDelivery`, so what the end leaves is said there, once. -/

namespace Sys2Proof.Machine

/-! ### The status that Table 3-2 gives -/

/-- A record that ends at LENGTH with the END of its message, or before its closing record (R50). -/
theorem Port.inboundEnd_done {P : Port} {w : Work} (hfull : w.length ≤ P.moved)
    (h : P.endTaken = true ∨ w.cont = true) : P.inboundEnd w = .done := by
  simp [Port.inboundEnd, hfull, h]

/-- A closing record full with no END (R50). -/
theorem Port.inboundEnd_overrun {P : Port} {w : Work} (hfull : w.length ≤ P.moved) (hend : P.endTaken = false)
    (hcont : w.cont = false) : P.inboundEnd w = .overrun := by
  simp [Port.inboundEnd, hfull, hend, hcont]

/-- A record that END stops before LENGTH (R51). -/
theorem Port.inboundEnd_of_not_full {P : Port} {w : Work} (hfull : ¬w.length ≤ P.moved) :
    P.inboundEnd w = if w.shortOk then .short else .underrun := if_neg hfull

/-- A normal end sets SKIP exactly where a word with END came before the closing record (R50, R51). -/
theorem Port.endSetsSkip_inbound {P : Port} {w : Work} {st : Status} (hd : w.dir = some .inbound)
    (hst : st = .done ∨ st = .short ∧ P.endTaken = true) : P.endSetsSkip w st = (w.cont && P.endTaken) := by
  rcases hst with rfl | ⟨rfl, hend⟩
  · simp [Port.endSetsSkip, hd, show (Status.done == Status.short) = false from rfl,
      show (Status.done == Status.aborted) = false from rfl]
  · simp [Port.endSetsSkip, hend]

/-- The report of an inbound record (Table 3-4): its words, its END, no repeats. -/
theorem Port.recordReport_inbound (P : Port) (p : PortId) {r : Record} (hd : r.work.dir = some .inbound) (st : Status)
    (d : Detail) : P.recordReport p r st d = .record p st r.tag P.moved P.endTaken 0 r.urgent d := by
  simp [Port.recordReport, Work.isData, hd]

/-! ### What the end leaves -/

/-- `s.EndsInbound p P r out`: `out` is how the end of the inbound record `r` at its last word leaves the part `s`, the counting
of that word having given port `p` the context `P` (Table 3-2). -/
def State.EndsInbound (s : State) (p : PortId) (P : Port) (r : Record) (out : Host.Outcome State Fault Refusal) : Prop :=
  let full : Prop := r.work.length ≤ P.moved
  let retires (st : Status) : Prop :=
    { s.givenBack p with map := s.map.leaveFence p }.Retires p
      { P.recordGone with
        msgOpen := r.work.cont && !P.endTaken, skip := r.work.cont && P.endTaken
        wordsPassed := P.wordsPassed && r.work.cont, endPassed := P.endPassed && r.work.cont }
      r (.record p st r.tag P.moved P.endTaken 0 r.urgent .absent) out
  let fails (st : Status) : Prop := ∃ t, out = .next t ∧ s.FailsAt t p P r st .absent
  (full → P.endTaken = true ∨ r.work.cont = true → retires .done) ∧
  (full → P.endTaken = false → r.work.cont = false → fails .overrun) ∧
  (¬full → P.endTaken = true → r.work.shortOk = true → retires .short) ∧
  (¬full → P.endTaken = true → r.work.shortOk = false → fails .underrun)

section
variable {s : State} {p : PortId} {r : Record} {rest : List Slot}

/-- A counted word that carried END or reached LENGTH ends the record (R94). -/
theorem State.afterDelivery_ends {w : Work} (h : (s.port p).endTaken = true ∨ w.length ≤ (s.port p).moved) :
    s.afterDelivery p w = s.endHere p ((s.port p).inboundEnd w) .absent := if_pos h

/-- DONE or SHORT at the last word of an inbound record of an open message: the data path is given back and the record
retires, SKIP in place of MSG-OPEN after an END before the closing record (R50, R51, R58). -/
theorem State.endHere_retires {st : Status} (hq : (s.port p).queue = ⟨r, .current⟩ :: rest)
    (hd : r.work.dir = some .inbound) (hrun : (s.port p).state = .running) (hmo : (s.port p).msgOpen = true)
    (hskip : (s.port p).skip = false) (hst : st = .done ∨ st = .short ∧ (s.port p).endTaken = true) :
    { s.givenBack p with map := s.map.leaveFence p }.Retires p
      { (s.port p).recordGone with
        msgOpen := r.work.cont && !(s.port p).endTaken, skip := r.work.cont && (s.port p).endTaken
        wordsPassed := (s.port p).wordsPassed && r.work.cont, endPassed := (s.port p).endPassed && r.work.cont }
      r (.record p st r.tag (s.port p).moved (s.port p).endTaken 0 r.urgent .absent)
      (.next ((s.endHere p st .absent).serve p)) := by
  have hret := State.recordEnd_normal (s := s.releaseBy p) (p := p) (r := r) (rest := rest) (st := st) (by simpa using hq)
    (by simp [hd]) (hst.imp_right And.left) (by simp [hrun]) rfl
  have hmsg : (r.work.cont && !(r.work.cont && (s.port p).endTaken)) = (r.work.cont && !(s.port p).endTaken) := by
    cases r.work.cont <;> simp
  rw [State.givenBack_eq, State.endHere]
  simpa only [State.releaseBy_port, State.releaseBy_map, Port.endSetsSkip_inbound hd hst,
    Port.recordReport_inbound _ p hd, hmo, hskip, Bool.true_and, Bool.false_or, hmsg, Bool.and_self_left] using hret

/-- The end of an inbound record at a word just counted, case by case of Table 3-2. -/
theorem State.endsInbound_afterDelivery {P : Port} (hP : s.port p = P) (hq : P.queue = ⟨r, .current⟩ :: rest)
    (hrest : ∀ slot ∈ rest, slot.stage = .queued) (hd : r.work.dir = some .inbound) (hrun : P.state = .running)
    (hmo : P.msgOpen = true) (hskip : P.skip = false) :
    s.EndsInbound p P r (.next ((s.afterDelivery p r.work).serve p)) := by
  subst hP
  have hdata : r.work.dir ≠ none := by simp [hd]
  refine ⟨fun hfull hend => ?done, fun hfull hend hcont => ?overrun, fun hfull hend hok => ?short,
    fun hfull hend hok => ?underrun⟩
  case done =>
    rw [State.afterDelivery_ends (.inr hfull), Port.inboundEnd_done hfull hend]
    exact State.endHere_retires hq hd hrun hmo hskip (.inl rfl)
  case overrun =>
    rw [State.afterDelivery_ends (.inr hfull), Port.inboundEnd_overrun hfull hend hcont]
    exact ⟨_, rfl, State.endHere_fails hq hrest hdata rfl .absent⟩
  case short =>
    rw [State.afterDelivery_ends (.inl hend), Port.inboundEnd_of_not_full hfull, if_pos hok]
    exact State.endHere_retires hq hd hrun hmo hskip (.inr ⟨rfl, hend⟩)
  case underrun =>
    rw [State.afterDelivery_ends (.inl hend), Port.inboundEnd_of_not_full hfull, if_neg (by simp [hok])]
    exact ⟨_, rfl, State.endHere_fails hq hrest hdata rfl .absent⟩

/-! ### What the end leaves, read from before the word -/

theorem State.givenBack_modPort (s : State) (p : PortId) (f : Port → Port) :
    (s.modPort p f).givenBack p = (s.givenBack p).modPort p f := by
  by_cases hh : s.arbiter.holder = .port p
  · rw [State.givenBack, State.givenBack, if_pos hh, if_pos (by simpa using hh)]; rfl
  · rw [State.givenBack, State.givenBack, if_neg hh, if_neg (by simpa using hh)]

/-- The end does not look at the context that its port had before the word was counted. -/
theorem State.endsInbound_of_modPort {f : Port → Port} {P : Port} {out : Host.Outcome State Fault Refusal}
    (h : (s.modPort p f).EndsInbound p P r out) : s.EndsInbound p P r out := by
  obtain ⟨hdone, hover, hshort, hunder⟩ := h
  simp only [State.givenBack_modPort, State.modPort_map, State.retires_modPort] at hdone hshort
  refine ⟨hdone, fun hfull hend hcont => ?_, hshort, fun hfull hend hok => ?_⟩
  · exact (hover hfull hend hcont).imp fun _ => And.imp_right State.failsAt_of_modPort
  · exact (hunder hfull hend hok).imp fun _ => And.imp_right State.failsAt_of_modPort

/-- The holder's end gives its data path back whether its access has ended already or not (R97). -/
theorem State.endsInbound_of_access {P : Port} {out : Host.Outcome State Fault Refusal}
    (hh : s.arbiter.holder = .port p) (h : ({ s with access := none } : State).EndsInbound p P r out) :
    s.EndsInbound p P r out := by
  obtain ⟨hdone, hover, hshort, hunder⟩ := h
  have hback : ({ s with access := none } : State).givenBack p = s.givenBack p := by simp [State.givenBack, hh]
  rw [hback] at hdone hshort
  refine ⟨hdone, fun hfull hend hcont => ?_, hshort, fun hfull hend hok => ?_⟩
  · exact (hover hfull hend hcont).imp fun _ => And.imp_right (State.failsAt_of_access hh)
  · exact (hunder hfull hend hok).imp fun _ => And.imp_right (State.failsAt_of_access hh)

/-! ### The words that are counted -/

/-- The write of an inbound MOVE's word ends with data (R92, R94): the word is counted. -/
theorem exec_hostAccessEnd_counts (hs : s.Live) (hh : s.arbiter.holder = .port p) (ha : s.access ≠ none)
    (hrun : (s.port p).state = .running) (hq : (s.port p).queue = ⟨r, .current⟩ :: rest)
    (hd : r.work.dir = some .inbound) (hcut : (s.port p).cut = none) (v : Word) :
    exec (.hostAccessEnd (.data v)) s =
      .next (((({ s with access := none } : State).modPort p Port.countInbound).afterDelivery p r.work).serve p) := by
  have hdata : (s.port p).currentData = some r.work := Port.currentData_of_queue hq (by simp [hd])
  show execHostAccessEnd (.data v) s = _
  simp [execHostAccessEnd, State.unlessReset_live hs, hh, ha, hrun, hdata, State.moveAccessEnd, hcut, hd]

/-- A word that a DRAIN takes is dropped and counted at once (R68). -/
theorem exec_inboundWordTaken_counts (hs : s.Live) (hrun : (s.port p).state = .running)
    (hph : (s.port p).phase = .transferring) (hcut : (s.port p).cut = none)
    (hq : (s.port p).queue = ⟨r, .current⟩ :: rest) (hd : r.work.dir = some .inbound) (hm : r.work.isMove = false)
    (hy : (s.port p).rdyLine = true) (hlr : (s.port p).lookupRequest = false)
    (hfree : ¬(s.arbiter.holder = .port p ∧ s.access ≠ none)) (v : Word) (endMark : Bool) :
    exec (.inboundWordTaken p v endMark) s =
      .next (((s.modPort p fun P => (P.takeWord v endMark).countInbound).afterDelivery p r.work).serve p) := by
  have hdata : (s.port p).currentData = some r.work := Port.currentData_of_queue hq (by simp [hd])
  have hacc : s.accessFor p = false := by
    simpa [State.accessFor, Option.isSome_iff_ne_none, Bool.eq_false_iff] using hfree
  have hwants : s.wantsInbound p = true := by
    simp [State.wantsInbound, hrun, hph, hlr, hcut, hacc, hdata, hd]
  show execInboundWordTaken p v endMark s = _
  simp [execInboundWordTaken, State.unlessReset_live hs, hwants, hy, hdata, State.deliver, hm]

end

/-- Settles O48: a MOVE's last word and a DRAIN's are counted and end the record in one way. -/
theorem inboundRecordEnds : Obligations.InboundRecordEnds := by
  unfold Obligations.InboundRecordEnds
  intro p s v r rest hs P hrun hph hcut _ hmo hskip hq hrest hd ends
  refine ⟨fun a hh ha => ?move, fun endMark hm hy hlr hfree => ?drain⟩
  case move =>
    rw [exec_hostAccessEnd_counts hs hh (by simp [ha]) hrun hq hd hcut]
    exact State.endsInbound_of_access hh (State.endsInbound_of_modPort
      (State.endsInbound_afterDelivery (State.port_modPort_same _ p _) hq hrest hd hrun hmo hskip))
  case drain =>
    rw [exec_inboundWordTaken_counts hs hrun hph hcut hq hd hm hy hlr hfree]
    exact State.endsInbound_of_modPort
      (State.endsInbound_afterDelivery (State.port_modPort_same _ p _) hq hrest hd hrun hmo hskip)

end Sys2Proof.Machine
end

section
/-! ATTACH, DETACH and FLT (R71 to R74). -/

namespace Sys2Proof.Machine

/-! ### The level of ATT -/

/-- What ATTACH and DETACH set at their port before it acts on them (R71, R72). -/
def Port.attSet (present : Bool) (P : Port) : Port :=
  { P with attLine := present, attached := present, attachChange := true, resync := false }

section
variable {s : State} {p : PortId}

theorem State.lineEvent_live (hs : s.Live) (level : Port → Port) (f : State → State) :
    s.lineEvent p level f = f (s.modPort p level) := if_neg (by simp [show s.win.resetHeld = false from hs])

theorem exec_attach (hs : s.Live) :
    exec (.attach p) s = .next ((s.setPort p ((s.port p).attSet true)).serveIdle p) := by
  refine congrArg Host.Outcome.next ((State.lineEvent_live hs _ _).trans ?_)
  simp [State.modPort_eq, Port.attSet]

theorem exec_detach (hs : s.Live) :
    exec (.detach p) s = .next ((s.setPort p ((s.port p).attSet false)).cutRecord p .detached .detached) := by
  refine congrArg Host.Outcome.next ((State.lineEvent_live hs _ _).trans ?_)
  simp [State.modPort_eq, Port.attSet]

theorem exec_flt (hs : s.Live) : exec (.flt p) s = .next (s.cutRecord p .periphFault .periphFault) :=
  congrArg Host.Outcome.next (State.unlessReset_live hs _)

/-- With no head to take up and RESYNC clear, an IDLE port stays as it is (R22, R82). -/
theorem State.serveIdle_of_nothing (h : (s.port p).state ≠ .idle ∨ (s.port p).queue = [])
    (hrs : (s.port p).resync = false) : s.serveIdle p = s := by
  by_cases hi : (s.port p).state = .idle
  · have hq : (s.port p).queue = [] := h.resolve_left (not_not.mpr hi)
    have hdir : (if (s.port p).resync && (s.port p).attached then .inbound else (s.port p).dirLine) =
        (s.port p).dirLine := by simp [hrs]
    rw [State.serveIdle_of_idle hi, State.serve_of_headWaits hi (by rw [Port.HeadWaits, hq]; nofun), hdir]
    exact s.setPort_port p
  · exact State.serveIdle_of_not_idle hi

/-! ### A detach or FLT at a current data record (R72 to R74) -/

theorem State.accessFor_iff : s.accessFor p = true ↔ s.arbiter.holder = .port p ∧ s.access ≠ none := by
  simp [State.accessFor, Option.isSome_iff_ne_none]

section
variable {w : Work} {c : Cut} {st : Status}

theorem State.cutRecord_no_data (h : (s.port p).currentData = none) : s.cutRecord p c st = s := by
  simp [State.cutRecord, h]

/-- A burst with a host access under way is cut and ends with it (R73). -/
theorem State.cutRecord_cuts (hc : (s.port p).currentData = some w) (hph : (s.port p).phase = .transferring)
    (ha : s.accessFor p = true) (hfix : (s.port p).cutFixesEnd = false) :
    s.cutRecord p c st = s.setPort p { s.port p with cut := some c } := by
  simp [State.cutRecord, hc, hph, ha, hfix, State.modPort_eq]

/-- A cut that fixed the end of the record stands (R73). -/
theorem State.cutRecord_fixed (hc : (s.port p).currentData = some w) (hph : (s.port p).phase = .transferring)
    (ha : s.accessFor p = true) (hfix : (s.port p).cutFixesEnd = true) : s.cutRecord p c st = s := by
  simp [State.cutRecord, hc, hph, ha, hfix]

/-- With no host access under way the record ends at once (R72, R74). -/
theorem State.cutRecord_ends (hc : (s.port p).currentData = some w)
    (hfree : ¬((s.port p).phase = .transferring ∧ s.accessFor p = true)) :
    s.cutRecord p c st = (s.endHere p st .absent).serve p := by
  simp only [State.cutRecord, hc, Option.isNone_some, Bool.false_eq_true, if_false, if_neg hfree]

end

theorem Port.cutFixesEnd_of_uncut {P : Port} (h : P.cut = none) : P.cutFixesEnd = false := by
  simp [Port.cutFixesEnd, h]

theorem Port.cutFixesEnd_of_end {P : Port} (h : P.cut = some .detached ∨ P.cut = some .periphFault) :
    P.cutFixesEnd = true := by
  rcases h with h | h <;> simp [Port.cutFixesEnd, h]

section
variable {P : Port} {r : Record} {rest : List Slot}

/-- An error end of a current data record, read from before a change of its port's context. -/
theorem State.endHere_setPort_fails {st : Status} (hq : P.queue = ⟨r, .current⟩ :: rest)
    (hrest : ∀ slot ∈ rest, slot.stage = .queued) (hd : r.work.dir ≠ none) (he : st.isError = true) (d : Detail) :
    s.FailsAt (((s.setPort p P).endHere p st d).serve p) p P r st d := by
  have hport : (s.setPort p P).port p = P := s.port_setPort_same p P
  have hends := State.endHere_fails (s := s.setPort p P) (by rw [hport]; exact hq) hrest hd he d
  rw [hport] at hends
  exact State.failsAt_of_modPort (f := fun _ => P) hends

/-- The record that a detach or FLT ends, read from before the change of ATT. -/
theorem State.cutRecord_fails {c : Cut} {st : Status} (hq : P.queue = ⟨r, .current⟩ :: rest)
    (hrest : ∀ slot ∈ rest, slot.stage = .queued) (hd : r.work.dir ≠ none)
    (hfree : ¬(P.phase = .transferring ∧ s.arbiter.holder = .port p ∧ s.access ≠ none)) (he : st.isError = true) :
    s.FailsAt ((s.setPort p P).cutRecord p c st) p P r st .absent := by
  have hport : (s.setPort p P).port p = P := s.port_setPort_same p P
  rw [State.cutRecord_ends (w := r.work) (by rw [hport]; exact Port.currentData_of_queue hq hd)
    (by rw [hport, State.accessFor_iff]; exact hfree)]
  exact State.endHere_setPort_fails hq hrest hd he .absent

end

end

/-- Settles O39: RESYNC is clear when the port examines its head. -/
theorem attachTaken : Obligations.AttachTaken := by
  unfold Obligations.AttachTaken
  intro p s hs attached
  refine ⟨fun h => ?nothing, fun r rest d hi hq hd hskip hburst => ?serves⟩
  case nothing =>
    rw [exec_attach hs, State.serveIdle_of_nothing (by simpa [Port.attSet] using h) (by simp [Port.attSet])]
    rfl
  case serves =>
    have hhead : ((s.port p).attSet true).TakesHead (attached.serving r rest d) := .serves hq hd rfl rfl hskip hburst
    rw [exec_attach hs, State.serveIdle_of_idle (by simpa [Port.attSet] using hi),
      State.serve_of_takesHead (by simpa using hhead) (by simpa [Port.attSet] using hi)
        (.inr (by simpa [Port.attSet] using hskip)), State.setPort_setPort]

/-- Settles O40: DETACH and FLT reach the record in one way, DETACH after its change of ATT. -/
theorem detachAndFaultEndRecords : Obligations.DetachAndFaultEndRecords := by
  unfold Obligations.DetachAndFaultEndRecords
  intro p s hs P detached
  have hport : (s.setPort p detached).port p = detached := s.port_setPort_same p detached
  have hdetach : exec (.detach p) s = .next ((s.setPort p detached).cutRecord p .detached .detached) := exec_detach hs
  have hflt : exec (.flt p) s = .next (s.cutRecord p .periphFault .periphFault) := exec_flt hs
  refine ⟨fun hnone => ?noData, fun r rest hq hd hrest => ?data⟩
  case noData =>
    rw [hdetach, hflt, State.cutRecord_no_data (by rw [hport]; exact hnone), State.cutRecord_no_data hnone]
    exact ⟨rfl, rfl⟩
  case data =>
    intro accessUnderWay
    have hdata : P.currentData = some r.work := Port.currentData_of_queue hq hd
    have hdata' : ((s.setPort p detached).port p).currentData = some r.work := by rw [hport]; exact hdata
    refine ⟨fun ⟨hph, hacc⟩ hcut => ?cuts, fun ⟨hph, hacc⟩ hcut => ?fixed, fun hfree => ?ends⟩
    case cuts =>
      have hfix := Port.cutFixesEnd_of_uncut hcut
      rw [hdetach, hflt, State.cutRecord_cuts hdata hph (State.accessFor_iff.mpr hacc) hfix,
        State.cutRecord_cuts hdata' (by rw [hport]; exact hph) (State.accessFor_iff.mpr hacc) (by rw [hport]; exact hfix),
        hport, State.setPort_setPort]
      exact ⟨rfl, rfl⟩
    case fixed =>
      have hfix := Port.cutFixesEnd_of_end hcut
      rw [hdetach, hflt, State.cutRecord_fixed hdata hph (State.accessFor_iff.mpr hacc) hfix,
        State.cutRecord_fixed hdata' (by rw [hport]; exact hph) (State.accessFor_iff.mpr hacc) (by rw [hport]; exact hfix)]
      exact ⟨rfl, rfl⟩
    case ends =>
      refine ⟨⟨_, hdetach, State.cutRecord_fails hq hrest hd hfree rfl⟩, ⟨_, hflt, ?_⟩⟩
      have hfails := State.cutRecord_fails (c := .periphFault) (s := s) (p := p) (P := P) (st := .periphFault) hq hrest hd
        hfree rfl
      rwa [State.setPort_port] at hfails

end Sys2Proof.Machine
end

section
/-! CNF and RPT (R75 to R78): the answers of a peripheral to an outbound burst. -/

namespace Sys2Proof.Machine

/-! ### The record that an answer reaches -/

theorem Port.outboundRunning_of_queue {P : Port} {r : Record} {rest : List Slot}
    (hq : P.queue = ⟨r, .current⟩ :: rest) (hd : r.work.dir = some .outbound) (hrun : P.state = .running) :
    P.outboundRunning = some r.work := by
  simp [Port.outboundRunning, hrun, Port.currentData_of_queue hq (by simp [hd]), hd]

theorem Port.outboundRunning_of_not_running {P : Port} (h : P.state ≠ .running) : P.outboundRunning = none := if_neg h

/-- A burst that is over without ending its record, read from before a change of its port's context (R40, R85, R96). -/
theorem State.burstOver_setPort_over {s : State} {p : PortId} {P Q : Port} {r : Record} {rest : List Slot}
    (hq : P.queue = ⟨r, .current⟩ :: rest) (hd : r.work.dir = some P.msgDir) (hrun : P.state = .running)
    (hskip : P.skip = false) (hrs : P.resync = false)
    (hQ : { P with phase := .waiting, inHand := none, lookupRequest := false, cut := none } = Q) :
    s.BurstOver p Q r (.next (((s.setPort p P).burstOver p).serve p)) := by
  have hport : (s.setPort p P).port p = P := s.port_setPort_same p P
  have hover := State.burstOver_over (s := s.setPort p P) (p := p) (r := r) (rest := rest) (Q := Q)
  rw [hport] at hover
  exact State.burstOver_setPort.mp (hover hq hd hrun hskip hrs hQ)

/-! ### CNF (R75) -/

/-- The words of a confirmed burst counted as moved, the stall timer restarted (R75). -/
def Port.burstCounted (P : Port) : Port := { P with moved := P.moved + P.exchanged, stallTimer := some 0 }

section
variable {s : State} {p : PortId}

theorem State.confirmed_eq (s : State) (p : PortId) (w : Work) :
    s.confirmed p w =
      if w.length ≤ (s.port p).moved + (s.port p).exchanged then
        (s.setPort p (s.port p).burstCounted).endHere p .done .absent
      else (s.setPort p (s.port p).burstCounted).burstOver p := by
  simp [State.confirmed, State.modPort_eq, Port.burstCounted, Port.restartStall]

theorem exec_cnf_ignored (hs : s.Live) (h : (s.port p).phase ≠ .confirming ∨ (s.port p).state ≠ .running) :
    exec (.cnf p) s = .next s := by
  refine congrArg Host.Outcome.next ((State.unlessReset_live hs _).trans ?_)
  rcases h with h | h
  · split
    · rfl
    · exact if_neg h
  · rw [Port.outboundRunning_of_not_running h]

theorem exec_cnf_taken (hs : s.Live) {w : Work} (hout : (s.port p).outboundRunning = some w)
    (hph : (s.port p).phase = .confirming) :
    exec (.cnf p) s = .next (((s.confirmed p w).serve p).modPort p Port.markAnswered) := by
  refine congrArg Host.Outcome.next ((State.unlessReset_live hs _).trans ?_)
  simp [hout, hph]

/-- An outbound record sets no SKIP at DONE: no END is taken from its peripheral (R50). -/
theorem Port.endSetsSkip_outbound_done {P : Port} {w : Work} (hd : w.dir = some .outbound) :
    P.endSetsSkip w .done = false := by
  simp [Port.endSetsSkip, hd, show (Status.done == Status.short) = false from rfl,
    show (Status.done == Status.aborted) = false from rfl, show (Direction.outbound == Direction.inbound) = false from rfl]

/-- The report of an outbound record that retires DONE (Table 3-4). -/
theorem Port.recordReport_outbound_done (P : Port) (p : PortId) {r : Record} (hd : r.work.dir = some .outbound)
    (d : Detail) : P.recordReport p r .done d = .record p .done r.tag P.moved (!r.work.cont) P.repeats r.urgent d := by
  simp [Port.recordReport, Work.isData, hd]

/-- An outbound record that is confirmed to its LENGTH retires DONE, the port holding no data path in CONFIRMING (R52, R58,
R97). -/
theorem State.endHere_outbound_done {r : Record} {rest : List Slot} (hq : (s.port p).queue = ⟨r, .current⟩ :: rest)
    (hd : r.work.dir = some .outbound) (hrun : (s.port p).state = .running) (hskip : (s.port p).skip = false)
    (hh : s.arbiter.holder ≠ .port p) :
    { s with map := s.map.leaveFence p }.Retires p
      { (s.port p).recordGone with
        msgOpen := (s.port p).msgOpen && r.work.cont
        wordsPassed := (s.port p).wordsPassed && r.work.cont, endPassed := (s.port p).endPassed && r.work.cont }
      r (.record p .done r.tag (s.port p).moved (!r.work.cont) (s.port p).repeats r.urgent .absent)
      (.next ((s.endHere p .done .absent).serve p)) := by
  have hret := State.recordEnd_normal (st := .done) hq (by simp [hd]) (.inl rfl) (by simp [hrun])
    (Port.recordReport_outbound_done (s.port p) p hd .absent)
  rw [Port.endSetsSkip_outbound_done hd, hskip, Bool.not_false, Bool.and_true, Bool.or_false, Bool.and_false] at hret
  rw [State.endHere, State.releaseBy_of_not_held s hh, Port.recordGone, hskip]
  exact hret

end

/-- Settles O41: short of LENGTH the burst is over, at LENGTH the record retires. -/
theorem confirmationTaken : Obligations.ConfirmationTaken := by
  unfold Obligations.ConfirmationTaken
  intro p s r rest hs P hq hd moved
  refine ⟨exec_cnf_ignored hs, fun hph hrun hdir hskip hrs hholder => ?taken⟩
  intro marked counted
  refine ⟨_, exec_cnf_taken hs (Port.outboundRunning_of_queue hq hd hrun) hph, fun hshort => ?short, fun hfull => ?full⟩
  case short =>
    rw [State.confirmed_eq, if_neg (Nat.not_le.mpr hshort)]
    exact State.burstOver_setPort_over (P := P.burstCounted) hq (hd.trans (congrArg some hdir.symm)) hrun hskip hrs rfl
  case full =>
    have hport : (s.setPort p P.burstCounted).port p = P.burstCounted := s.port_setPort_same p _
    have hret := State.endHere_outbound_done (s := s.setPort p P.burstCounted) (p := p) (rest := rest)
      (by rw [hport]; exact hq) hd (by rw [hport]; exact hrun) (by rw [hport]; exact hskip) hholder
    rw [hport] at hret
    rw [State.confirmed_eq, if_pos hfull]
    exact (State.retires_modPort (f := fun _ => P.burstCounted)).mp hret

/-! ### RPT (R76 to R78) -/

/-- END PASSED is cleared by the refusal of a burst that carried END (R48). -/
def Port.unended (w : Work) (P : Port) : Port := { P with endPassed := P.endPassed && !P.burstCarriedEnd w }

/-- The burst carried END: every word of a record with CONTINUE clear has been sent (R70). -/
theorem Port.burstCarriedEnd_eq (P : Port) (w : Work) :
    P.burstCarriedEnd w = (w.cont == false && decide (P.position = w.length ∧ 0 < P.exchanged)) := by
  rw [Bool.eq_iff_iff]
  simp [Port.burstCarriedEnd, and_left_comm, and_assoc]

section
variable {s : State} {p : PortId} {w : Work}

theorem Port.unended_eq (P : Port) (w : Work) :
    (if P.burstCarriedEnd w then { P with endPassed := false } else P) = P.unended w := by
  cases h : P.burstCarriedEnd w <;> simp [Port.unended, h]

/-- Below REPEAT LIMIT the burst is rewound and over (R76, R77). -/
theorem State.repeatBurst_rewinds (h : (s.port p).repeats < (s.port p).config.repeatLimit.toNat) :
    s.repeatBurst p w = ((s.releaseBy p).setPort p { (s.port p).unended w with
      repeats := (s.port p).repeats + 1, position := (s.port p).burstStart, stallTimer := some 0 }).burstOver p := by
  simp only [State.repeatBurst, if_pos h, Port.unended_eq, State.modPort_eq, State.releaseBy_port]
  rfl

/-- At REPEAT LIMIT the record ends (R52, R76). -/
theorem State.repeatBurst_ends (h : (s.port p).config.repeatLimit.toNat ≤ (s.port p).repeats) :
    s.repeatBurst p w = (s.setPort p ((s.port p).unended w)).endHere p .repeatLimit .absent := by
  simp only [State.repeatBurst, if_neg (Nat.not_lt.mpr h), Port.unended_eq, State.modPort_eq]

/-- RPT, phase by phase. -/
theorem exec_rpt (hs : s.Live) (hout : (s.port p).outboundRunning = some w) :
    exec (.rpt p) s = .next (
      if (s.port p).phase = .confirming then (s.repeatBurst p w).serve p
      else if (s.port p).phase = .transferring ∧ (s.port p).cut = none then
        if (s.port p).secondAnswer = true then s.setPort p { s.port p with answered := false }
        else if s.accessFor p = true then s.setPort p { s.port p with cut := some .repeatRequest }
        else (s.repeatBurst p w).serve p
      else s) := by
  refine congrArg Host.Outcome.next ((State.unlessReset_live hs _).trans ?_)
  cases hph : (s.port p).phase with
  | transferring => cases hcut : (s.port p).cut <;> simp [hout, State.modPort_eq]
  | confirming | waiting | none => simp [hout]

end

/-- Settles O42: what RPT does with the burst that it reaches. -/
theorem repeatTaken : Obligations.RepeatTaken := by
  unfold Obligations.RepeatTaken
  intro p s r rest hs P hq hrest hd hrun accessUnderWay carriedEnd unended secondAnswer repeated
  have hexec := exec_rpt hs (Port.outboundRunning_of_queue hq hd hrun)
  have hunended : P.unended r.work = unended := by rw [Port.unended, P.burstCarriedEnd_eq]
  have hrepeats (h : repeated) : exec (.rpt p) s = .next ((s.repeatBurst p r.work).serve p) := by
    rcases h with hph | ⟨hph, hcut, hsecond, hfree⟩
    · rw [hexec, if_pos hph]
    · rw [hexec, if_neg (by simp [P, hph]), if_pos ⟨hph, hcut⟩, if_neg (mt P.secondAnswer_iff.mp hsecond),
        if_neg (mt State.accessFor_iff.mp hfree)]
  refine ⟨fun h => ?ignored, fun hph hcut hsecond => ?second, fun hph hcut hsecond hacc => ?cuts,
    fun hrep hlimit hdir hskip hrs => ?rewinds, fun hrep hlimit => ?ends⟩
  case ignored =>
    rw [hexec]
    rcases h with h | h | ⟨h, hcut⟩
    · simp [P, h]
    · simp [P, h]
    · rw [if_neg (by simp [P, h]), if_neg fun h => hcut h.2]
  case second => rw [hexec, if_neg (by simp [P, hph]), if_pos ⟨hph, hcut⟩, if_pos (P.secondAnswer_iff.mpr hsecond)]
  case cuts =>
    rw [hexec, if_neg (by simp [P, hph]), if_pos ⟨hph, hcut⟩, if_neg (mt P.secondAnswer_iff.mp hsecond),
      if_pos (State.accessFor_iff.mpr hacc)]
  case rewinds =>
    rw [hrepeats hrep, State.repeatBurst_rewinds hlimit, hunended]
    exact State.burstOver_setPort_over
      (P := { unended with repeats := P.repeats + 1, position := P.burstStart, stallTimer := some 0 }) hq
      (hd.trans (congrArg some hdir.symm)) hrun hskip hrs rfl
  case ends =>
    refine ⟨_, hrepeats hrep, ?_⟩
    rw [State.repeatBurst_ends hlimit, hunended]
    exact State.endHere_setPort_fails (P := unended) hq hrest (by simp [hd]) rfl .absent

end Sys2Proof.Machine
end

section
/-! The words of a burst and of resync discard (R67 to R70, R82, R83, R92 to R96): what each leaves short of its
record's end. -/

namespace Sys2Proof.Machine

section
variable {s : State} {p : PortId} {r : Record} {rest : List Slot}

/-- Nothing begins at a RUNNING port whose data record is in a burst. -/
theorem State.serve_of_burst (hrun : (s.port p).state = .running) (hq : (s.port p).queue = ⟨r, .current⟩ :: rest)
    (hd : r.work.dir ≠ none) (hph : (s.port p).phase ≠ .waiting) : s.serve p = s :=
  State.serve_of_settled (by simp [hrun])
    (Port.settle_of_not_ready (Port.currentData_of_queue hq hd) (by simp [Port.readyForBurst, hph]))

/-- A port goes on wanting words while RDY is present (R87). -/
theorem State.wantWord_of_ready (hy : (s.port p).rdyLine = true) : s.wantWord p = s := if_pos hy

/-! ### Inbound words (R67, R68, R92) -/

theorem exec_inboundWordTaken_ignored (hs : s.Live)
    (h : (s.port p).rdyLine = false ∨ (s.port p).state ≠ .running ∨ (s.port p).phase ≠ .transferring) (v : Word)
    (endMark : Bool) : exec (.inboundWordTaken p v endMark) s = .next s := by
  refine congrArg Host.Outcome.next ((State.unlessReset_live hs _).trans (if_neg ?_))
  rcases h with h | h | h <;> simp [State.wantsInbound, h]

/-- A MOVE's word is taken and its write begins at the address of its position (R89, R92). -/
theorem exec_inboundWordTaken_writes (hs : s.Live) (hrun : (s.port p).state = .running)
    (hph : (s.port p).phase = .transferring) (hcut : (s.port p).cut = none)
    (hq : (s.port p).queue = ⟨r, .current⟩ :: rest) (hd : r.work.dir = some .inbound) (hm : r.work.isMove = true)
    (hy : (s.port p).rdyLine = true) (hlr : (s.port p).lookupRequest = false)
    (hfree : ¬(s.arbiter.holder = .port p ∧ s.access ≠ none)) (v : Word) (endMark : Bool) :
    exec (.inboundWordTaken p v endMark) s =
      .next { s.setPort p ((s.port p).takeWord v endMark) with
        access := some (.write (r.work.physicalAddress (s.port p).latch (s.port p).position) v) } := by
  have hdata : (s.port p).currentData = some r.work := Port.currentData_of_queue hq (by simp [hd])
  have hacc : s.accessFor p = false := Bool.eq_false_iff.mpr (mt State.accessFor_iff.mp hfree)
  have hwants : s.wantsInbound p = true := by simp [State.wantsInbound, hrun, hph, hlr, hcut, hacc, hdata, hd]
  refine congrArg Host.Outcome.next ((State.unlessReset_live hs _).trans ?_)
  simp [hwants, hy, hdata, State.deliver, hm, State.modPort_eq, Port.takeWord, Port.restartStall]

/-- A counted word that neither carried END nor reached LENGTH leaves its record current (R94). -/
theorem State.afterDelivery_short {w : Work} (hend : (s.port p).endTaken = false)
    (hmoved : (s.port p).moved < w.length) :
    s.afterDelivery p w =
      if (s.port p).burstLength ≤ (s.port p).exchanged then s.transferEnd p else s.wantWord p :=
  if_neg (by rw [hend]; exact not_or.mpr ⟨nofun, Nat.not_le.mpr hmoved⟩)

/-- Short of the burst length, with RDY present, the burst goes on (R94). -/
theorem State.afterDelivery_goesOn {w : Work} (hend : (s.port p).endTaken = false) (hmoved : (s.port p).moved < w.length)
    (hburst : (s.port p).exchanged < (s.port p).burstLength) (hy : (s.port p).rdyLine = true) :
    s.afterDelivery p w = s := by
  rw [State.afterDelivery_short hend hmoved, if_neg (Nat.not_le.mpr hburst), State.wantWord_of_ready hy]

/-- At the burst length the burst is over (R94, R96). -/
theorem State.afterDelivery_burstOver {w : Work} (hc : (s.port p).currentData = some w) (hd : w.dir = some .inbound)
    (hend : (s.port p).endTaken = false) (hmoved : (s.port p).moved < w.length)
    (hburst : (s.port p).burstLength ≤ (s.port p).exchanged) : s.afterDelivery p w = (s.releaseBy p).burstOver p := by
  rw [State.afterDelivery_short hend hmoved, if_pos hburst]
  simp [State.transferEnd, hc, hd]

/-! ### Outbound words (R67, R69, R70) -/

/-- The END word of a record (R70). -/
theorem Port.atEndWord_eq (P : Port) (w : Work) :
    P.atEndWord w = (w.cont == false && decide (P.position + 1 = w.length)) := by
  cases h : w.cont <;> simp [Port.atEndWord, h]

theorem Work.exists_move {w : Work} (h : w.isMove = true) :
    ∃ dir length address mapped cont shortOk, w = .move dir length address mapped cont shortOk := by
  cases w with
  | move dir length address mapped cont shortOk => exact ⟨dir, length, address, mapped, cont, shortOk, rfl⟩
  | fill | drain | mark | patch => exact absurd h (by simp [Work.isMove])

/-- The word in hand of a burst with nothing under way (R69): PATTERN for a FILL, the word read for a MOVE. -/
theorem State.wordInHand_eq {v : Word} (hrun : (s.port p).state = .running) (hph : (s.port p).phase = .transferring)
    (hlr : (s.port p).lookupRequest = false) (hcut : (s.port p).cut = none)
    (hfree : ¬(s.arbiter.holder = .port p ∧ s.access ≠ none)) (hq : (s.port p).queue = ⟨r, .current⟩ :: rest)
    (hword : (∃ length cont, r.work = .fill length v cont) ∨
      (r.work.isMove = true ∧ r.work.dir = some .outbound ∧ (s.port p).inHand = some v)) :
    s.wordInHand p = some v := by
  have hacc : s.accessFor p = false := Bool.eq_false_iff.mpr (mt State.accessFor_iff.mp hfree)
  have hdata : (s.port p).currentData = some r.work := by
    refine Port.currentData_of_queue hq ?_
    rcases hword with ⟨n, c, hw⟩ | ⟨-, hd, -⟩
    · simp [hw, Work.dir]
    · simp [hd]
  have hidle : ((s.port p).state == .running && (s.port p).phase == .transferring && !(s.port p).lookupRequest &&
      (s.port p).cut.isNone && !s.accessFor p) = true := by simp [hrun, hph, hlr, hcut, hacc]
  rw [State.wordInHand, if_pos hidle, hdata]
  rcases hword with ⟨n, c, hw⟩ | ⟨hm, hd, hhand⟩
  · rw [hw]
  · obtain ⟨dir, n, a, m, c, k, hw⟩ := Work.exists_move hm
    rw [hw] at hd ⊢
    obtain rfl : dir = .outbound := Option.some.inj hd
    exact hhand

section
variable {w : Work} {v : Word}

theorem exec_outboundWordSent_ignored (hs : s.Live) (hy : (s.port p).rdyLine = false) :
    exec (.outboundWordSent p) s = .next s := by
  refine congrArg Host.Outcome.next ((State.unlessReset_live hs _).trans ?_)
  split <;> simp [hy]

theorem exec_outboundWordSent_taken (hs : s.Live) (hhand : s.wordInHand p = some v)
    (hc : (s.port p).currentData = some w) (hy : (s.port p).rdyLine = true) :
    exec (.outboundWordSent p) s =
      .next (((s.setPort p ((s.port p).sendWord w v)).afterSending p w).serve p) := by
  refine congrArg Host.Outcome.next ((State.unlessReset_live hs _).trans ?_)
  simp [hhand, hc, hy, State.modPort_eq]

/-- Short of the burst length and of LENGTH a MOVE reads its next word (R93). -/
theorem State.afterSending_reads (hburst : (s.port p).exchanged < (s.port p).burstLength)
    (hpos : (s.port p).position < w.length) (hm : w.isMove = true) : s.afterSending p w = s.startRead p w := by
  simp [State.afterSending, hburst, hpos, hm]

/-- Short of the burst length and of LENGTH a FILL has its next word in hand at once (R93). -/
theorem State.afterSending_goesOn (hburst : (s.port p).exchanged < (s.port p).burstLength)
    (hpos : (s.port p).position < w.length) (hm : w.isMove = false) (hy : (s.port p).rdyLine = true) :
    s.afterSending p w = s := by
  simp [State.afterSending, hburst, hpos, hm, State.wantWord_of_ready hy]

/-- At the burst length an outbound burst gives the data path back and waits for its confirmation (R75, R94, R96). -/
theorem State.afterSending_confirms (hc : (s.port p).currentData = some w) (hd : w.dir = some .outbound)
    (hsent : 0 < (s.port p).exchanged) (hburst : (s.port p).burstLength ≤ (s.port p).exchanged) :
    s.afterSending p w =
      (s.releaseBy p).setPort p { s.port p with phase := .confirming, inHand := none } := by
  simp [State.afterSending, State.transferEnd, hburst, hc, hd, hsent, State.confirm, State.modPort_eq]

end

theorem State.releaseBy_setPort (s : State) (p : PortId) (P : Port) :
    (s.setPort p P).releaseBy p = (s.releaseBy p).setPort p P := State.givenBack_modPort s p fun _ => P

/-! ### Resync discard (R82, R83) -/

theorem Port.discards_iff (P : Port) :
    P.discards = true ↔ P.resync = true ∧ P.attached = true ∧
      (P.state = .idle ∨ P.state = .running ∨ P.state = .halted) ∧ P.currentData = none := by
  simp [Port.discards, and_assoc, or_assoc]

theorem exec_discardWord (hs : s.Live) (v : Word) (endMark : Bool) :
    exec (.discardWord p v endMark) s = .next (
      if (s.port p).discards = true ∧ (s.port p).rdyLine = true then
        (s.setPort p ((s.port p).discardWord v endMark)).serve p
      else s) := by
  refine congrArg Host.Outcome.next ((State.unlessReset_live hs _).trans ?_)
  simp only [Bool.and_eq_true, State.modPort_eq]

/-- With no data record current and DIR already INBOUND, nothing begins. -/
theorem Port.settle_of_inbound {P : Port} (hc : P.currentData = none) (hdir : P.dirLine = .inbound) : P.settle = P := by
  unfold Port.settle
  split
  · rw [← hdir]
  · rw [hc]

end

/-- Settles O44: a MOVE's word is written, a DRAIN's counted. -/
theorem inboundWordTaken : Obligations.InboundWordTaken := by
  unfold Obligations.InboundWordTaken
  intro p s r rest v endMark hs P hq hd address taken
  refine ⟨fun h => exec_inboundWordTaken_ignored hs h v endMark, fun hy hrun hph hlr hcut hfree => ?_⟩
  have hcounts (hm : r.work.isMove = false) :
      exec (.inboundWordTaken p v endMark) s =
        .next (((s.setPort p taken.countInbound).afterDelivery p r.work).serve p) :=
    exec_inboundWordTaken_counts hs hrun hph hcut hq hd hm hy hlr hfree v endMark
  have hport : (s.setPort p taken.countInbound).port p = taken.countInbound := s.port_setPort_same p _
  have hqueue : ((s.setPort p taken.countInbound).port p).queue = ⟨r, .current⟩ :: rest := by rw [hport]; exact hq
  refine ⟨fun hm hmap => ?unmapped, fun l hm hmap hl => ?mapped, fun hm hend hmark hmoved hburst => ?goesOn,
    fun hm hend hmark hmoved hburst hdir hskip hrs => ?burstEnds⟩
  case unmapped =>
    rw [exec_inboundWordTaken_writes hs hrun hph hcut hq hd hm hy hlr hfree, Work.physicalAddress_unmapped hmap]
    rfl
  case mapped =>
    rw [exec_inboundWordTaken_writes hs hrun hph hcut hq hd hm hy hlr hfree, show (s.port p).latch = some l from hl,
      Work.physicalAddress_mapped hmap]
    rfl
  case goesOn =>
    have hnoEnd : taken.countInbound.endTaken = false := by simp [taken, Port.countInbound, hend, hmark]
    rw [hcounts hm, State.afterDelivery_goesOn (by rw [hport]; exact hnoEnd) (by rw [hport]; exact hmoved)
        (by rw [hport]; exact hburst) (by rw [hport]; exact hy),
      State.serve_of_burst (by rw [hport]; exact hrun) hqueue (by simp [hd])
        (by rw [hport]; simp [taken, Port.countInbound, hph])]
    rfl
  case burstEnds =>
    have hnoEnd : taken.countInbound.endTaken = false := by simp [taken, Port.countInbound, hend, hmark]
    rw [hcounts hm, State.afterDelivery_burstOver (Port.currentData_of_queue hqueue (by simp [hd])) hd
      (by rw [hport]; exact hnoEnd) (by rw [hport]; exact hmoved) (by rw [hport]; exact hburst), State.releaseBy_setPort]
    exact State.burstOver_setPort_over (P := taken.countInbound) hq (hd.trans (congrArg some hdir.symm)) hrun hskip hrs
      (by simp [taken, Port.countInbound, hlr, hcut])

/-- Settles O45: the burst goes on, a MOVE with a read, or waits for its confirmation. -/
theorem outboundWordSent : Obligations.OutboundWordSent := by
  unfold Obligations.OutboundWordSent
  intro p s r rest v hs P hq hword hrun hph hlr hcut hfree endMark address sent
  have hd : r.work.dir = some .outbound := by
    rcases hword with ⟨n, c, hw⟩ | ⟨-, hd, -⟩
    · rw [hw]; rfl
    · exact hd
  have hhand : s.wordInHand p = some v := State.wordInHand_eq hrun hph hlr hcut hfree hq
    (hword.imp_right fun ⟨hm, hd, hhand, _⟩ => ⟨hm, hd, hhand⟩)
  have hsend : P.sendWord r.work v = sent := by simp only [Port.sendWord, Port.atEndWord_eq]; rfl
  have hexec (hy : P.rdyLine = true) :
      exec (.outboundWordSent p) s = .next (((s.setPort p sent).afterSending p r.work).serve p) :=
    hsend ▸ exec_outboundWordSent_taken hs hhand (Port.currentData_of_queue hq (by simp [hd])) hy
  have hport : (s.setPort p sent).port p = sent := s.port_setPort_same p _
  refine ⟨exec_outboundWordSent_ignored hs, fun hy hburst hpos => ?goesOn, fun hy hburst => ?confirms⟩
  case goesOn =>
    have hreads (hm : r.work.isMove = true) : exec (.outboundWordSent p) s = .next { s.setPort p sent with
        access := some (.read (r.work.physicalAddress P.latch (P.position + 1))) } := by
      rw [hexec hy, State.afterSending_reads (by rw [hport]; exact hburst) (by rw [hport]; exact hpos) hm, State.startRead,
        hport]
      exact congrArg _ (State.serve_of_burst (r := r) (rest := rest) (by simpa [State.port_mk] using hrun)
        (by simpa [State.port_mk] using hq) (by simp [hd]) (by simp [State.port_mk, sent, hph]))
    refine ⟨fun hm => ?fill, fun hm hmap => ?unmapped, fun l hm hmap hl => ?mapped⟩
    case fill =>
      rw [hexec hy, State.afterSending_goesOn (by rw [hport]; exact hburst) (by rw [hport]; exact hpos) hm
          (by rw [hport]; exact hy),
        State.serve_of_burst (r := r) (rest := rest) (by rw [hport]; exact hrun) (by rw [hport]; exact hq) (by simp [hd])
          (by simp [sent, hph])]
    case unmapped => rw [hreads hm, Work.physicalAddress_unmapped hmap]
    case mapped => rw [hreads hm, hl, Work.physicalAddress_mapped hmap]
  case confirms =>
    have hsent : (s.setPort p sent).afterSending p r.work =
        (s.releaseBy p).setPort p { sent with phase := .confirming } := by
      rw [State.afterSending_confirms (Port.currentData_of_queue (r := r) (rest := rest) (by rw [hport]; exact hq)
        (by simp [hd])) hd (by rw [hport]; exact Nat.succ_pos _) (by rw [hport]; exact hburst), hport,
        State.releaseBy_setPort, State.setPort_setPort]
    refine ⟨_, hexec hy, ?_⟩
    rw [hsent, State.serve_of_burst (r := r) (rest := rest) (by simpa using hrun) (by simpa using hq) (by simp [hd])
      (by simp)]
    exact ⟨State.port_setPort_same _ p _, fun q hqp => by simp [hqp], State.givenBackBy_release, by simp, by simp, by simp,
      by simp, by simp⟩

/-- Settles O46: an END at an IDLE port lets the head be examined. -/
theorem discardTaken : Obligations.DiscardTaken := by
  unfold Obligations.DiscardTaken
  intro p s v endMark hs P discards
  have hexec := exec_discardWord (p := p) hs v endMark
  refine ⟨fun h => ?ignored, fun hdis hy => ?taken⟩
  case ignored =>
    rw [hexec, if_neg]
    rintro ⟨hdis, hy⟩
    exact h.elim (absurd (P.discards_iff.mp hdis)) (by simp [P, hy])
  case taken =>
    intro dropped
    rw [if_pos ⟨P.discards_iff.mpr hdis, hy⟩] at hexec
    obtain ⟨hresync, -, -, hnone⟩ := hdis
    have hdropped : P.discardWord v endMark = dropped := by simp only [Port.discardWord, hresync, Bool.true_and]; rfl
    rw [hdropped] at hexec
    have hport : (s.setPort p dropped).port p = dropped := s.port_setPort_same p _
    refine ⟨fun hidle hdir => ?stays, fun hidle hf Q hQ => ?examined⟩
    case stays =>
      have hsettle : dropped.settle = dropped := Port.settle_of_inbound hnone hdir
      rw [hexec, State.serve_of_settled (by rw [hport]; exact hidle) (by rw [hport]; exact hsettle)]
    case examined =>
      have hleave : s.map.leaveFence p = s.map ∨ P.skip = false :=
        hf.symm.imp_left fun h => by simp [MapUnit.leaveFence, h]
      rw [hexec, State.serve_of_takesHead (Q' := Q) (by rw [hport]; exact hQ) (by rw [hport]; exact hidle)
        (by rw [hport]; exact hleave), State.setPort_setPort]

end Sys2Proof.Machine
end

section
/-! The timers' events (R79 to R81, R149, R150) and the power-on values. -/

namespace Sys2Proof.Machine

/-! ### The stall timer (R80, R81) -/

section
variable {s : State} {p : PortId}

/-- The stall timer of a port counts (R80). -/
theorem Port.stallCounts_iff (P : Port) :
    P.stallCounts = true ↔ 1 ≤ P.config.stallLimit.toNat ∧ P.state = .running ∧ P.currentData ≠ none ∧
      ((P.phase = .waiting ∧ P.rdyLine = false) ∨ P.phase = .confirming) := by
  simp only [Port.stallCounts, Bool.and_eq_true, Bool.or_eq_true, decide_eq_true_eq, beq_iff_eq, Bool.not_eq_true',
    Option.isSome_iff_ne_none, and_assoc]

/-- A current record that is a data record has a direction (R1, R2). -/
theorem Port.dir_of_currentData {P : Port} {r : Record} {rest : List Slot} (hq : P.queue = ⟨r, .current⟩ :: rest)
    (h : P.currentData ≠ none) : r.work.dir ≠ none := fun hnone =>
  h (by simp [Port.currentData, Port.current, hq, Work.isData, hnone])

theorem Port.stallDue_iff {P : Port} {n : Nat} (h : P.stallTimer = some n) :
    P.stallDue = true ↔ P.stallCounts = true ∧ P.config.stallLimit.toNat ≤ n := by
  simp [Port.stallDue, h]

theorem exec_stallExpiry (hs : s.Live) :
    exec (.stallExpiry p) s =
      .next (if (s.port p).stallDue = true then (s.endHere p .stalled .absent).serve p else s) :=
  congrArg Host.Outcome.next (State.unlessReset_live hs _)

/-! ### The holdoff timer (R149, R150) -/

theorem exec_holdoffExpiry (hs : s.Live) {n : Nat} (h : s.reports.holdoffTimer = some n) :
    exec .holdoffExpiry s = .next (if s.reports.holdoff ≤ n then { s with reports := s.reports.raise } else s) := by
  refine congrArg Host.Outcome.next ((State.unlessReset_live hs _).trans ?_)
  rw [h]

/-! ### CAN (R79) -/

theorem Port.canDue_iff (P : Port) : P.canDue = true ↔ ∃ k, P.can = some k ∧ 2 ≤ k := by
  cases h : P.can <;> simp [Port.canDue, h]

theorem exec_canRelease (hs : s.Live) :
    exec (.canRelease p) s =
      .next (if (s.port p).canDue = true then s.setPort p { s.port p with can := none } else s) :=
  congrArg Host.Outcome.next (State.unlessReset_live hs _)

/-! ### The time unit step (R80, R150) -/

theorem exec_timeUnitStep (hs : s.Live) :
    exec .timeUnitStep s = .next { (s.mapPorts fun _ => Port.stallStep) with reports := s.reports.holdoffStep } :=
  congrArg Host.Outcome.next (State.unlessReset_live hs _)

theorem Port.stallStep_counting {P : Port} (h : P.stallCounts = true) :
    P.stallStep = { P with stallTimer := P.stallTimer.map fun n => min (n + 1) P.config.stallLimit.toNat } := if_pos h

theorem Port.stallStep_stopped {P : Port} (h : ¬P.stallCounts = true) : P.stallStep = P := if_neg h

end

/-- Settles O53, timer by timer. -/
theorem timersTaken : Obligations.TimersTaken := by
  unfold Obligations.TimersTaken
  intro p s hs counts P
  have hcounts (Q : Port) : Q.stallCounts = true ↔ counts Q := Q.stallCounts_iff
  refine ⟨fun n hn h => ?stallEarly, fun n r rest hn hcount hle hq hrest => ?stallDue,
    fun n hn => ⟨fun hle => ?holdoffDue, fun hlt => ?holdoffEarly⟩, fun k hk hle => ?canDue, fun h => ?canEarly,
    ⟨_, exec_timeUnitStep hs, fun q => ?stallStep, rfl, rfl, rfl, rfl, rfl, rfl, rfl, rfl⟩⟩
  case stallEarly =>
    have hearly : ¬P.stallDue = true := fun hdue => by
      obtain ⟨hcount, hle⟩ := (Port.stallDue_iff hn).mp hdue
      exact h.elim (absurd ((hcounts P).mp hcount)) (Nat.not_lt.mpr hle)
    rw [exec_stallExpiry hs, if_neg hearly]
  case stallDue =>
    have hdir : r.work.dir ≠ none := by
      obtain ⟨-, -, hdata, -⟩ := hcount
      exact Port.dir_of_currentData hq hdata
    rw [exec_stallExpiry hs, if_pos ((Port.stallDue_iff hn).mpr ⟨(hcounts P).mpr hcount, hle⟩)]
    exact ⟨_, rfl, State.endHere_fails hq hrest hdir rfl .absent⟩
  case holdoffDue =>
    rw [exec_holdoffExpiry hs hn, if_pos hle]
    rfl
  case holdoffEarly => rw [exec_holdoffExpiry hs hn, if_neg (Nat.not_le.mpr hlt)]
  case canDue => rw [exec_canRelease hs, if_pos (P.canDue_iff.mpr ⟨k, hk, hle⟩)]
  case canEarly =>
    have hearly : ¬P.canDue = true := fun hdue => by
      obtain ⟨k, hk, hle⟩ := P.canDue_iff.mp hdue
      exact Nat.not_lt.mpr hle (h k hk)
    rw [exec_canRelease hs, if_neg hearly]
  case stallStep =>
    have hport : ({ (s.mapPorts fun _ => Port.stallStep) with reports := s.reports.holdoffStep } : State).port q =
        (s.port q).stallStep := s.port_mapPorts _ q
    rw [hport]
    exact ⟨fun h => Port.stallStep_counting ((hcounts _).mpr h), fun h => Port.stallStep_stopped (mt (hcounts _).mp h)⟩

/-! ### Power-on values -/

theorem State.port_reset (p : PortId) : State.reset.port p = Port.powerOn := by
  simp [State.port, State.reset]

/-- Every LEVEL is 3 at power-on (Table 10-2). -/
theorem Attention.level_powerOn (c : Fin 10) : Attention.powerOn.level c.val = 3 := by
  revert c
  decide

/-- Settles O3, block by block. -/
theorem resetValues : Obligations.ResetValues := by
  unfold Obligations.ResetValues
  have hempty : PortSet.empty.isEmpty = true := by decide
  refine ⟨fun p => ?ports, rfl, fun _ => rfl, rfl, rfl, rfl, hempty, hempty, ?rest⟩
  case ports =>
    rw [State.port_reset]
    decide
  case rest =>
    exact ⟨rfl, rfl, rfl, rfl, rfl, rfl, rfl, rfl, rfl, Attention.level_powerOn, by decide⟩

end Sys2Proof.Machine
end

section
/-! The levels of RDY (R85 to R88) and the ends of a MOVE burst's host accesses (R73, R77, R92 to R98). -/

namespace Sys2Proof.Machine

/-! ### The level of RDY -/

/-- What RDY_RISE and RDY_FALL set at their port before it acts on them (R65). -/
def Port.rdySet (present : Bool) (P : Port) : Port := { P with rdyLine := present }

section
variable {s : State} {p : PortId} {r : Record} {rest : List Slot}

theorem exec_rdyRise (hs : s.Live) :
    exec (.rdyRise p) s = .next (s.setPort p ((s.port p).rdySet true).settle) := by
  refine congrArg Host.Outcome.next ((State.lineEvent_live hs _ _).trans ?_)
  rw [State.modPort_modPort]
  rfl

theorem exec_rdyFall (hs : s.Live) :
    exec (.rdyFall p) s = .next (
      let t := s.setPort p ((s.port p).rdySet false)
      if t.wantsInbound p = true ∨ t.wordInHand p ≠ none then (t.transferEnd p).serve p else t) := by
  refine congrArg Host.Outcome.next ((State.lineEvent_live hs _ _).trans ?_)
  simp only [Bool.or_eq_true, Option.isSome_iff_ne_none]
  rfl

/-- The burst of a FILL or DRAIN is as long as its quota and the words remaining allow (R88). -/
theorem Port.startBurst_eq_bursting {w : Work} (hm : w.isMove = false) (P : Port) : P.startBurst w = P.bursting w := by
  simp [Port.startBurst, Port.bursting, Work.burstLength, hm]

/-! ### Bursts that want a word (R67, R69, R87) -/

/-- Outside TRANSFERRING no word is wanted and none is in hand. -/
theorem State.wants_nothing (hph : (s.port p).phase ≠ .transferring) :
    ¬(s.wantsInbound p = true ∨ s.wordInHand p ≠ none) := by
  simp [State.wantsInbound, State.wordInHand, hph]

theorem Work.exists_fill {w : Work} (hd : w.dir = some .outbound) (hm : w.isMove = false) :
    ∃ length pattern cont, w = .fill length pattern cont := by
  cases w with
  | fill length pattern cont => exact ⟨length, pattern, cont, rfl⟩
  | move => exact absurd hm nofun
  | drain | mark | patch => exact absurd hd nofun

/-- A burst with nothing under way wants an inbound word or has an outbound one in hand. -/
theorem State.wants_word {P : Port} (hport : s.port p = P) (hrun : P.state = .running) (hph : P.phase = .transferring)
    (hlr : P.lookupRequest = false) (hcut : P.cut = none) (hfree : ¬(s.arbiter.holder = .port p ∧ s.access ≠ none))
    (hq : P.queue = ⟨r, .current⟩ :: rest) (hd : r.work.dir ≠ none)
    (hread : r.work.dir = some .outbound → r.work.isMove = true → P.inHand ≠ none) :
    s.wantsInbound p = true ∨ s.wordInHand p ≠ none := by
  subst hport
  obtain ⟨dir, hdir⟩ := Option.ne_none_iff_exists'.mp hd
  cases dir with
  | inbound =>
    have hacc : s.accessFor p = false := Bool.eq_false_iff.mpr (mt State.accessFor_iff.mp hfree)
    left
    simp [State.wantsInbound, hrun, hph, hlr, hcut, hacc, Port.currentData_of_queue hq hd, hdir]
  | outbound =>
    have hword : ∃ v, (∃ length cont, r.work = .fill length v cont) ∨
        (r.work.isMove = true ∧ r.work.dir = some .outbound ∧ (s.port p).inHand = some v) := by
      cases hm : r.work.isMove with
      | false =>
        obtain ⟨length, pattern, cont, hw⟩ := Work.exists_fill hdir hm
        exact ⟨pattern, .inl ⟨length, cont, hw⟩⟩
      | true =>
        obtain ⟨v, hv⟩ := Option.ne_none_iff_exists'.mp (hread hdir hm)
        exact ⟨v, .inr ⟨rfl, hdir, hv⟩⟩
    obtain ⟨v, hv⟩ := hword
    right
    rw [State.wordInHand_eq hrun hph hlr hcut hfree hq hv]
    exact Option.some_ne_none v

end

/-- Settles O43: a rise can start the burst of a FILL or DRAIN, a fall is the yield of a burst that wants a word. -/
theorem readyLevelTaken : Obligations.ReadyLevelTaken := by
  unfold Obligations.ReadyLevelTaken
  intro p s r rest hs P hq hd hrs hab hpp
  have hdata (present : Bool) : (P.rdySet present).currentData = some r.work := Port.currentData_of_queue hq hd
  have hport : (s.setPort p (P.rdySet false)).port p = P.rdySet false := s.port_setPort_same p _
  refine ⟨fun h => ?levelAlone, fun hm hrun hph hskip => ?starts, fun hph => ?falls,
    fun hrun hph hlr hcut hfree _ hread => ?yields⟩
  case levelAlone =>
    have hsettle : (P.rdySet true).settle = P.rdySet true :=
      Port.settle_of_serving hq hd (h.imp_right fun hph => by simp [Port.readyForBurst, Port.rdySet, hph])
    rw [exec_rdyRise hs, hsettle]
    rfl
  case starts =>
    have hready : (P.rdySet true).readyForBurst = true := by
      simp [Port.readyForBurst, Port.rdySet, hrun, hpp, hab, hskip, hrs, hph]
    rw [exec_rdyRise hs, Port.settle_of_ready (hdata true) hm hready, Port.startBurst_eq_bursting hm]
    rfl
  case falls =>
    rw [exec_rdyFall hs]
    exact congrArg _ (if_neg (State.wants_nothing (by rw [hport]; exact hph)))
  case yields =>
    have hwants := State.wants_word hport hrun hph hlr hcut hfree hq hd hread
    refine ⟨_, (exec_rdyFall hs).trans (congrArg _ (if_pos hwants)), ?_⟩
    rw [State.transferEnd_eq (r := r) (rest := rest) (by rw [hport]; exact hq) hd (by rw [hport]; exact hab)
        (by rw [hport]; exact hpp) (by rw [hport]; exact hlr) (by rw [hport]; exact hcut), hport, State.releaseBy_setPort,
      State.setPort_setPort,
      State.serve_of_settled (by rw [State.port_setPort_same]; simp [Port.rdySet, hrun])
        (by rw [State.port_setPort_same]
            exact Port.settle_of_serving hq hd (.inr (by simp [Port.readyForBurst, Port.rdySet])))]
    exact ⟨State.port_setPort_same _ p _, fun q hqp => by simp [hqp], State.givenBackBy_release, by simp, by simp, by simp,
      by simp, by simp⟩

/-! ### The ends of host accesses -/

/-- The part with the host access under way ended (R95). -/
def State.accessEnded (s : State) : State := { s with access := none }

/-- A context with the word read in hand (R69, R93). -/
def Port.handed (v : Word) (P : Port) : Port := { P with inHand := some v }

/-- The context in which a cut burst's record ends (R73, R77): an inbound word that reached memory is counted. -/
def Port.writeCounted (w : Work) (outcome : AccessOutcome) (P : Port) : Port :=
  match outcome with
  | .data _ => if w.dir = some .inbound then P.countInbound else P
  | .error => P

section
variable {s : State} {p : PortId} {w : Work} {c : Cut} {v : Word} {P : Port} {outcome : AccessOutcome}

/-- An access of a burst's holder ends in its burst, and what can begin at the port begins. -/
theorem exec_hostAccessEnd (hs : s.Live) (hh : s.arbiter.holder = .port p) (ha : s.access ≠ none)
    (hrun : (s.port p).state = .running) (hc : (s.port p).currentData = some w) (outcome : AccessOutcome) :
    exec (.hostAccessEnd outcome) s = .next ((s.moveAccessEnd p w outcome).serve p) := by
  refine congrArg Host.Outcome.next ((State.unlessReset_live hs _).trans ?_)
  simp [hh, ha, hrun, hc]

theorem State.moveAccessEnd_read (hcut : (s.port p).cut = none) (hd : w.dir = some .outbound) :
    s.moveAccessEnd p w (.data v) = (s.accessEnded.setPort p ((s.port p).handed v)).wantWord p := by
  simp only [State.moveAccessEnd, hcut, if_pos hd]
  rfl

theorem State.moveAccessEnd_error (hcut : (s.port p).cut = none) :
    s.moveAccessEnd p w .error = s.accessEnded.endHere p .busError .absent := by
  simp only [State.moveAccessEnd, hcut]
  rfl

theorem State.moveAccessEnd_cut (hcut : (s.port p).cut = some c) :
    s.moveAccessEnd p w outcome = s.accessEnded.cutAccessEnd p w c outcome := by
  simp only [State.moveAccessEnd, hcut]
  rfl

theorem Port.writeCounted_queue : (P.writeCounted w outcome).queue = P.queue := by
  cases outcome with
  | error => rfl
  | data v => by_cases hd : w.dir = some .inbound <;> simp [Port.writeCounted, hd, Port.countInbound]

/-- The access of a burst that a detach or an FLT cut ends its record (R73). -/
theorem State.cutAccessEnd_ends {st : Status}
    (h : (c = .detached ∧ st = .detached) ∨ (c = .periphFault ∧ st = .periphFault)) :
    s.cutAccessEnd p w c outcome = (s.setPort p ((s.port p).writeCounted w outcome)).endHere p st .absent := by
  cases outcome with
  | error => rcases h with ⟨rfl, rfl⟩ | ⟨rfl, rfl⟩ <;> simp [State.cutAccessEnd, Port.writeCounted]
  | data v =>
    by_cases hd : w.dir = some .inbound <;> rcases h with ⟨rfl, rfl⟩ | ⟨rfl, rfl⟩ <;>
      simp [State.cutAccessEnd, Port.writeCounted, hd, State.modPort_eq]

/-- The access of a burst that an RPT cut is the word read, which is not sent: the RPT is carried out (R77). -/
theorem State.cutAccessEnd_repeats (hd : w.dir = some .outbound) :
    s.cutAccessEnd p w .repeatRequest outcome = s.repeatBurst p w := by
  simp [State.cutAccessEnd, hd, show (Direction.outbound == Direction.inbound) = false from rfl]

/-- The refusal of a burst short of LENGTH clears no END PASSED (R48, R70). -/
theorem Port.unended_of_short (h : P.position < w.length) : P.unended w = P := by
  have hcarried : P.burstCarriedEnd w = false := by simp [Port.burstCarriedEnd, beq_false_of_ne (Nat.ne_of_lt h)]
  simp [Port.unended, hcarried]

/-- The holder's release ends its access in any case (R97). -/
theorem State.releaseBy_accessEnded (hh : s.arbiter.holder = .port p) : s.accessEnded.releaseBy p = s.releaseBy p := by
  rw [State.releaseBy_of_held s hh, State.releaseBy_of_held s.accessEnded hh]
  rfl

/-- A port that wants a word while RDY is absent yields (R87). -/
theorem State.wantWord_yields (hy : (s.port p).rdyLine = false) : s.wantWord p = s.transferEnd p := by
  simp [State.wantWord, hy]

/-- At the burst length, or with RDY absent, a word that leaves its record going on ends the transfer phase (R87, R94). -/
theorem State.afterDelivery_yields (hend : (s.port p).endTaken = false) (hmoved : (s.port p).moved < w.length)
    (h : (s.port p).burstLength ≤ (s.port p).exchanged ∨ (s.port p).rdyLine = false) :
    s.afterDelivery p w = s.transferEnd p := by
  rw [State.afterDelivery_short hend hmoved]
  rcases h with hburst | hy
  · exact if_pos hburst
  · rw [State.wantWord_yields hy, ite_self]

section
variable {r : Record} {rest : List Slot}

/-- A burst that has something left to exchange goes on when its access has ended. -/
theorem State.serve_accessEnded (hq : P.queue = ⟨r, .current⟩ :: rest) (hd : r.work.dir ≠ none)
    (hrun : P.state = .running) (hph : P.phase = .transferring) :
    (s.accessEnded.setPort p P).serve p = { s.setPort p P with access := none } := by
  have hport : (s.accessEnded.setPort p P).port p = P := s.accessEnded.port_setPort_same p P
  exact State.serve_of_burst (by rw [hport]; exact hrun) (by rw [hport]; exact hq) hd (by simp [hport, hph])

/-- The transfer phase of an outbound burst that sent a word goes over to its confirmation (R75, R94, R96). -/
theorem State.serve_transferEnd_confirms (hh : s.arbiter.holder = .port p) (hq : P.queue = ⟨r, .current⟩ :: rest)
    (hd : r.work.dir = some .outbound) (hrun : P.state = .running) (hsent : 0 < P.exchanged) :
    ((s.accessEnded.setPort p P).transferEnd p).serve p =
      (s.givenBack p).setPort p { P with phase := .confirming, inHand := none } := by
  have hdata : P.currentData = some r.work := Port.currentData_of_queue hq (by simp [hd])
  have hend : (s.accessEnded.setPort p P).transferEnd p =
      (s.givenBack p).setPort p { P with phase := .confirming, inHand := none } := by
    simp [State.transferEnd, hdata, hd, hsent, State.confirm, State.releaseBy_setPort, State.releaseBy_accessEnded hh,
      State.givenBack_eq]
  rw [hend, State.serve_of_burst (r := r) (rest := rest) (by simpa using hrun) (by simpa using hq) (by simp [hd]) (by simp)]

/-- The transfer phase of a burst that sent no outbound word is over with it (R94, R96). -/
theorem State.serve_transferEnd_burstOver (hh : s.arbiter.holder = .port p) (hq : P.queue = ⟨r, .current⟩ :: rest)
    (hd : r.work.dir = some P.msgDir) (hrun : P.state = .running) (hskip : P.skip = false) (hrs : P.resync = false)
    (hunsent : r.work.dir = some .outbound → P.exchanged = 0) :
    (s.givenBack p).BurstOver p { P with phase := .waiting, inHand := none, lookupRequest := false, cut := none } r
      (.next (((s.accessEnded.setPort p P).transferEnd p).serve p)) := by
  have hdata : P.currentData = some r.work := Port.currentData_of_queue hq (by simp [hd])
  have hnot : ¬(r.work.dir = some .outbound ∧ 0 < P.exchanged) := fun ⟨hout, hsent⟩ => hsent.ne' (hunsent hout)
  have hend : (s.accessEnded.setPort p P).transferEnd p = ((s.givenBack p).setPort p P).burstOver p := by
    simp [State.transferEnd, hdata, hnot, State.releaseBy_setPort, State.releaseBy_accessEnded hh, State.givenBack_eq]
  rw [hend]
  exact State.burstOver_setPort_over hq hd hrun hskip hrs rfl

end

/-! ### RESETTING ports (R38, R98) -/

theorem exec_hostAccessEnd_resetting (hs : s.Live) (hh : s.arbiter.holder = .port p) (ha : s.access ≠ none)
    (hst : (s.port p).state = .resetting) : exec (.hostAccessEnd outcome) s = .next (s.resettingReleased p) := by
  refine congrArg Host.Outcome.next ((State.unlessReset_live hs _).trans ?_)
  simp [hh, ha, hst]

theorem exec_resettingRelease (hs : s.Live) (hh : s.arbiter.holder = .port p) (hst : (s.port p).state = .resetting) :
    exec (.resettingRelease p) s = .next (if s.access = none then s.resettingReleased p else s) := by
  refine congrArg Host.Outcome.next ((State.unlessReset_live hs _).trans ?_)
  simp [hh, hst]

end

/-- Settles O47: the access ends in a burst that goes on, yields, reaches its length, fails, was cut, or at a RESETTING
port. -/
theorem hostAccessEnds : Obligations.HostAccessEnds := by
  unfold Obligations.HostAccessEnds
  intro p s a hs hh ha P counted
  have hacc : s.access ≠ none := by simp [ha]
  refine ⟨fun outcome hst => ?resetting, fun r rest hrun hph hskip hrs hq hrest hd => ?running⟩
  case resetting =>
    intro released
    refine ⟨exec_hostAccessEnd_resetting hs hh hacc hst, ?_, ?_⟩
    · exact (exec_resettingRelease (s := s.accessEnded) hs hh hst).trans (congrArg _ (if_pos rfl))
    · exact (exec_resettingRelease hs hh hst).trans (congrArg _ (if_neg hacc))
  case running =>
    intro waits
    have hdata : r.work.dir ≠ none := by simp [hd]
    have hexec := exec_hostAccessEnd hs hh hacc hrun (Port.currentData_of_queue hq hdata)
    have hfails {Q : Port} {st : Status} (hQ : Q.queue = ⟨r, .current⟩ :: rest) (he : st.isError = true) :
        s.FailsAt (((s.accessEnded.setPort p Q).endHere p st .absent).serve p) p Q r st .absent :=
      State.failsAt_of_access hh (State.endHere_setPort_fails (s := s.accessEnded) hQ hrest hdata he .absent)
    refine ⟨fun v hcut hout => ?read, fun v hcut hin hend hmoved => ?write, fun outcome hcut hout hpos => ?repeated,
      fun hcut => ?error, fun v c st hcut hst => ?cut⟩
    case read =>
      have hport : (s.accessEnded.setPort p (P.handed v)).port p = P.handed v := State.port_setPort_same _ p _
      have hread : exec (.hostAccessEnd (.data v)) s =
          .next (((s.accessEnded.setPort p (P.handed v)).wantWord p).serve p) := by
        rw [hexec, State.moveAccessEnd_read hcut hout]
      have hyield (hy : P.rdyLine = false) : exec (.hostAccessEnd (.data v)) s =
          .next (((s.accessEnded.setPort p (P.handed v)).transferEnd p).serve p) := by
        rw [hread, State.wantWord_yields (by rw [hport]; exact hy)]
      refine ⟨fun hy => ?inHand, fun hy hsent => ?confirms, fun hy hunsent => ?burstOver⟩
      case inHand =>
        rw [hread, State.wantWord_of_ready (by rw [hport]; exact hy)]
        exact congrArg _ (State.serve_accessEnded (P := P.handed v) hq hdata hrun hph)
      case confirms =>
        rw [hyield hy]
        exact congrArg _ (State.serve_transferEnd_confirms (P := P.handed v) hh hq hout hrun hsent)
      case burstOver =>
        rw [hyield hy]
        exact State.serve_transferEnd_burstOver (P := P.handed v) hh hq hd hrun hskip hrs fun _ => hunsent
    case write =>
      have hport : (s.accessEnded.setPort p counted).port p = counted := State.port_setPort_same _ p _
      have hwrite : exec (.hostAccessEnd (.data v)) s =
          .next (((s.accessEnded.setPort p counted).afterDelivery p r.work).serve p) :=
        exec_hostAccessEnd_counts hs hh hacc hrun hq hin hcut v
      refine ⟨fun hburst hy => ?goesOn, fun h => ?burstOver⟩
      case goesOn =>
        rw [hwrite, State.afterDelivery_goesOn (by rw [hport]; exact hend) (by rw [hport]; exact hmoved)
            (by rw [hport]; exact hburst) (by rw [hport]; exact hy)]
        exact congrArg _ (State.serve_accessEnded (P := counted) hq hdata hrun hph)
      case burstOver =>
        rw [hwrite, State.afterDelivery_yields (by rw [hport]; exact hend) (by rw [hport]; exact hmoved)
          (by rw [hport]; exact h)]
        exact State.serve_transferEnd_burstOver (P := counted) hh hq hd hrun hskip hrs fun hout => by simp [hin] at hout
    case repeated =>
      have hrepeat : exec (.hostAccessEnd outcome) s = .next ((s.accessEnded.repeatBurst p r.work).serve p) := by
        rw [hexec, State.moveAccessEnd_cut hcut, State.cutAccessEnd_repeats hout]
      have hunended : (s.accessEnded.port p).unended r.work = P := Port.unended_of_short hpos
      refine ⟨fun hlimit => ?rewinds, fun hlimit => ?limit⟩
      case rewinds =>
        rw [hrepeat, State.repeatBurst_rewinds (s := s.accessEnded) hlimit, hunended, State.releaseBy_accessEnded hh]
        exact State.burstOver_setPort_over
          (P := { P with repeats := P.repeats + 1, position := P.burstStart, stallTimer := some 0 }) hq hd hrun hskip hrs rfl
      case limit =>
        refine ⟨_, hrepeat, ?_⟩
        rw [State.repeatBurst_ends (s := s.accessEnded) hlimit, hunended]
        exact hfails hq rfl
    case error =>
      refine ⟨_, hexec .error, ?_⟩
      rw [State.moveAccessEnd_error hcut]
      exact State.failsAt_of_access hh (State.endHere_fails (s := s.accessEnded) hq hrest hdata rfl .absent)
    case cut =>
      have hends (outcome : AccessOutcome) : ∃ t, exec (.hostAccessEnd outcome) s = .next t ∧
          s.FailsAt t p (P.writeCounted r.work outcome) r st .absent := by
        refine ⟨_, hexec outcome, ?_⟩
        rw [State.moveAccessEnd_cut hcut, State.cutAccessEnd_ends hst]
        exact hfails (Port.writeCounted_queue.trans hq) (by rcases hst with ⟨-, rfl⟩ | ⟨-, rfl⟩ <;> rfl)
      exact ⟨hends .error, hends (.data v)⟩

end Sys2Proof.Machine
end

section
/-! GRANT (R85 to R91, R93, R101 to R107): which request is chosen, how the pointers and the counter move, and the burst that
the grant of a port starts. -/

namespace Sys2Proof.Machine

/-! ### A request that stands (R85, R86, R101) -/

section
variable {P : Port} {w : Work} {r : Record} {rest : List Slot}

theorem Work.dir_ne_none_of_isMove (h : w.isMove = true) : w.dir ≠ none := by
  obtain ⟨dir, length, address, mapped, cont, shortOk, rfl⟩ := Work.exists_move h
  exact Option.some_ne_none dir

theorem Port.isMove_of_requests (h : P.requests = true) (hq : P.queue = ⟨r, .current⟩ :: rest) :
    r.work.isMove = true := by
  obtain ⟨-, hmove⟩ := Bool.and_eq_true_iff.mp h
  by_cases hd : r.work.dir = none
  · simp [Port.currentData, Port.current, hq, Work.isData, hd] at hmove
  · simpa [Port.currentData_of_queue hq hd] using hmove

theorem Port.running_of_requests (h : P.requests = true) : P.state = .running := by
  by_contra hst
  simp [Port.requests, Port.readyForBurst_of_not_running hst] at h

theorem Port.rdyLine_of_requests (h : P.requests = true) : P.rdyLine = true := by
  obtain ⟨hready, -⟩ := Bool.and_eq_true_iff.mp h
  exact (Bool.and_eq_true_iff.mp hready).2

/-! ### The burst of a grant (R85, R88 to R91, R93) -/

/-- The burst start needs no lookup (R90): the record is not mapped, or the latch serves the page of the position. -/
def Port.translationSettled (P : Port) (w : Work) : Bool := !w.mapped || P.latchServes w

theorem Port.translationSettled_iff :
    P.translationSettled w = true ↔ (w.mapped = true → ∃ l ∈ P.latch, l.page = w.pageAt P.position) := by
  cases hl : P.latch <;> cases hm : w.mapped <;> simp [Port.translationSettled, Port.latchServes, hl, hm]

/-- The context of a port whose MOVE was granted the data path: its burst started, and a lookup requested unless the
translation is settled (R85, R91). -/
def Port.granted (P : Port) (w : Work) : Port :=
  { P.startBurst w with lookupRequest := P.lookupRequest || !P.translationSettled w }

/-- The length of a MOVE's burst (R88). -/
theorem Port.startBurst_of_move (hm : w.isMove = true) :
    P.startBurst w = { P with
      phase := .transferring, burstStart := P.position, exchanged := 0, answered := false
      burstLength := min (min P.config.burstQuota (w.length - P.position))
        ((4096 - (w.address.toNat + 4 * P.position) % 4096) / 4) } := by
  simp [Port.startBurst, Work.burstLength, hm, wordsToBoundary, pageBytes, Work.wordAddress]

theorem Port.granted_eq (hm : w.isMove = true) :
    P.granted w = { P with
      phase := .transferring, burstStart := P.position, exchanged := 0, answered := false
      burstLength := min (min P.config.burstQuota (w.length - P.position))
        ((4096 - (w.address.toNat + 4 * P.position) % 4096) / 4)
      lookupRequest := (P.granted w).lookupRequest } := by
  rw [Port.granted, Port.startBurst_of_move hm]

end

section
variable {s : State} {p q : PortId} {c : PortClass} {w : Work} {r : Record} {rest : List Slot}

/-- The access that a grant leaves under way (R93): an outbound MOVE with its translation settled reads its first word. -/
def State.grantAccess (s : State) (p : PortId) (w : Work) : Option Access :=
  if (s.port p).translationSettled w = true ∧ w.dir = some .outbound then
    some (.read (w.physicalAddress (s.port p).latch (s.port p).position))
  else s.access

/-- With RDY present the burst of a MOVE that is granted starts and does not end in the same step (R87). -/
theorem State.startMove_eq (hreq : (s.port p).requests = true) (hq : (s.port p).queue = ⟨r, .current⟩ :: rest) :
    s.startMove p r.work =
      { s.setPort p ((s.port p).granted r.work) with access := s.grantAccess p r.work } := by
  have hd : r.work.dir ≠ none := Work.dir_ne_none_of_isMove (Port.isMove_of_requests hreq hq)
  have hrun : (s.port p).state = .running := Port.running_of_requests hreq
  have hrdy : (s.port p).rdyLine = true := Port.rdyLine_of_requests hreq
  have hserve (a : Option Access) :
      State.serve { s.setPort p ((s.port p).startBurst r.work) with access := a } p =
        { s.setPort p ((s.port p).startBurst r.work) with access := a } := by
    have hport : State.port { s.setPort p ((s.port p).startBurst r.work) with access := a } p =
        (s.port p).startBurst r.work := s.port_setPort_same p _
    refine State.serve_of_burst (r := r) (rest := rest) ?_ ?_ hd ?_ <;> rw [hport]
    · exact hrun
    · exact hq
    · exact nofun
  cases hset : (s.port p).translationSettled r.work with
  | true =>
    have hgranted : (s.port p).granted r.work = (s.port p).startBurst r.work := by
      simp [Port.granted, hset, Port.startBurst]
    have hstart : s.startMove p r.work =
        ((s.setPort p ((s.port p).startBurst r.work)).translated p r.work).serve p := if_pos hset
    rw [hstart, hgranted]
    by_cases hout : r.work.dir = some .outbound
    · simpa [State.translated, State.startRead, State.grantAccess, hset, hout, Port.startBurst] using hserve _
    · rw [State.translated, if_neg hout, State.wantWord_of_ready (by rw [State.port_setPort_same]; exact hrdy),
        State.grantAccess, if_neg (by simp [hout])]
      exact hserve s.access
  | false =>
    have hgranted : (s.port p).granted r.work = { (s.port p).startBurst r.work with lookupRequest := true } := by
      simp [Port.granted, hset]
    have hstart : s.startMove p r.work =
        (s.modPort p (Port.startBurst r.work)).modPort p fun P => { P with lookupRequest := true } :=
      if_neg (ne_true_of_eq_false hset)
    rw [hstart, hgranted, State.modPort_modPort, State.grantAccess, if_neg (by simp [hset])]
    rfl

theorem State.grantPort_eq (c : PortClass) (hreq : (s.port p).requests = true)
    (hq : (s.port p).queue = ⟨r, .current⟩ :: rest) :
    s.grantPort c p =
      { s.setPort p ((s.port p).granted r.work) with
        arbiter := s.grantedArbiter c p, access := s.grantAccess p r.work } := by
  have hd : r.work.dir ≠ none := Work.dir_ne_none_of_isMove (Port.isMove_of_requests hreq hq)
  rw [State.grantPort, Port.currentData_of_queue hq hd]
  exact State.startMove_eq (s := { s with arbiter := s.grantedArbiter c p }) hreq hq

theorem State.grantAccess_unchanged
    (h : (s.port p).translationSettled w = false ∨ w.dir = some .inbound) : s.grantAccess p w = s.access :=
  if_neg (by rcases h with h | h <;> simp [h])

theorem State.grantAccess_reads (hset : (s.port p).translationSettled w = true) (hout : w.dir = some .outbound) :
    s.grantAccess p w = some (.read (w.physicalAddress (s.port p).latch (s.port p).position)) :=
  if_pos ⟨hset, hout⟩

/-! ### The choice (R105, R106) -/

/-- The pointer of a class (R106). -/
def Arbiter.pointer (a : Arbiter) (c : PortClass) : PortId := if c = .urgent then a.urgentPointer else a.normalPointer

/-- The request of a port stands in a class (R101, R105). -/
def State.Asks (s : State) (c : PortClass) (q : PortId) : Prop :=
  (s.port q).requests = true ∧ (s.port q).config.cls = c

theorem State.requestsIn_iff : s.requestsIn c q = true ↔ s.Asks c q := by
  simp [State.requestsIn, State.Asks]

theorem State.firstIn_eq_find (s : State) (c : PortClass) :
    s.firstIn c = (rotation (s.arbiter.pointer c)).find? (s.requestsIn c) := by
  cases c <;> rfl

theorem State.firstIn_eq_none (h : ∀ q, ¬s.Asks c q) : s.firstIn c = none := by
  rw [← Option.not_isSome_iff_eq_none, State.firstIn_isSome]
  exact not_exists.mpr h

/-- Within a class the port nearest after the pointer is chosen (R106). -/
theorem State.firstIn_eq_some (hp : s.Asks c p)
    (hmin : ∀ q, s.Asks c q → (p.val + 7 - (s.arbiter.pointer c).val) % 8 ≤
      (q.val + 7 - (s.arbiter.pointer c).val) % 8) :
    s.firstIn c = some p := by
  rw [State.firstIn_eq_find]
  exact find_rotation (State.requestsIn_iff.mpr hp) fun q hq => hmin q (State.requestsIn_iff.mp hq)

/-- The URGENT class is chosen while a request stands in it and the starvation guard does not let a NORMAL one through
(R105). -/
theorem State.chosenClass_urgent (hu : s.firstIn .urgent ≠ none)
    (hguard : s.arbiter.urgentRun = 4 → s.firstIn .normal = none) : s.chosenClass = .urgent := by
  have hsome : ¬(s.firstIn .urgent).isNone = true := by simpa using hu
  have hpasses : ¬(s.arbiter.urgentRun = 4 ∧ (s.firstIn .normal).isSome = true) := by
    rintro ⟨hrun, hn⟩
    simp [hguard hrun] at hn
  rw [State.chosenClass, if_neg hsome, if_neg hpasses]

/-- The NORMAL class is chosen where no URGENT request stands, and by the starvation guard after four URGENT grants
(R105). -/
theorem State.chosenClass_normal (hn : s.firstIn .normal ≠ none)
    (h : s.firstIn .urgent = none ∨ s.arbiter.urgentRun = 4) : s.chosenClass = .normal := by
  rcases h with hu | hrun
  · exact if_pos (by simp [hu])
  · have hpasses : s.arbiter.urgentRun = 4 ∧ (s.firstIn .normal).isSome = true :=
      ⟨hrun, Option.isSome_iff_ne_none.mpr hn⟩
    rw [State.chosenClass, if_pos hpasses]
    exact ite_self _

/-! ### The pointers and the counter (R104, R107) -/

theorem State.grantedArbiter_holder (s : State) (c : PortClass) (p : PortId) :
    (s.grantedArbiter c p).holder = .port p := by
  cases c <;> rfl

/-- An URGENT grant passed over no NORMAL request. -/
theorem State.urgentRun_unopposed (h : s.firstIn .normal = none) : (s.grantedArbiter .urgent p).urgentRun = 0 :=
  if_neg (by simp [h])

/-- An URGENT grant passed over a NORMAL request. -/
theorem State.urgentRun_opposed (h : (s.firstIn .normal).isSome = true) :
    (s.grantedArbiter .urgent p).urgentRun = s.arbiter.urgentRun + 1 := if_pos h

/-! ### The command (R104) -/

theorem exec_grant_held (hs : s.Live) (h : s.arbiter.holder ≠ .none) : exec .grant s = .next s :=
  congrArg Host.Outcome.next ((State.unlessReset_live hs _).trans (if_pos h))

theorem exec_grant_fetch (hs : s.Live) (hfree : s.arbiter.holder = .none) (h : s.fetchRequests = true) :
    exec .grant s = .next s.grantFetch :=
  congrArg Host.Outcome.next
    ((State.unlessReset_live hs _).trans ((if_neg (not_not_intro hfree)).trans (if_pos h)))

/-- The ports' requests are looked at while the patch fetch does not ask. -/
theorem exec_grant_ports (hs : s.Live) (hfree : s.arbiter.holder = .none) (h : ¬s.fetchRequests = true) :
    exec .grant s = .next ((s.firstIn s.chosenClass).elim s (s.grantPort s.chosenClass)) := by
  refine congrArg Host.Outcome.next
    ((State.unlessReset_live hs _).trans ((if_neg (not_not_intro hfree)).trans ((if_neg h).trans ?_)))
  cases s.firstIn s.chosenClass <;> rfl

theorem exec_grant_nothing (hs : s.Live) (hfree : s.arbiter.holder = .none) (h : ¬s.fetchRequests = true)
    (hnone : ∀ c, s.firstIn c = none) : exec .grant s = .next s := by
  rw [exec_grant_ports hs hfree h, hnone, Option.elim_none]

theorem exec_grant_port (hs : s.Live) (hfree : s.arbiter.holder = .none) (h : ¬s.fetchRequests = true)
    (hclass : s.chosenClass = c) (hfirst : s.firstIn c = some p) : exec .grant s = .next (s.grantPort c p) := by
  rw [exec_grant_ports hs hfree h, hclass, hfirst, Option.elim_some]

end

/-- Settles O49: the choice by `State.chosenClass` and the rotation, then the closed form of the grant's state. -/
theorem grantTaken : Obligations.GrantTaken := by
  unfold Obligations.GrantTaken
  intro s hs asks fetchAsks steps pointer noneOf
  have hnone {c : PortClass} (h : noneOf c) : s.firstIn c = none := State.firstIn_eq_none h
  have hsome {c : PortClass} (h : ¬noneOf c) : (s.firstIn c).isSome = true :=
    (s.firstIn_isSome c).mpr (not_forall_not.mp h)
  refine ⟨exec_grant_held hs, fun hfree => ⟨fun f hf hfetch => ?fetch, fun hfetch hu hn => ?nothing,
    fun c p r rest hfetch hp hguard hturn hmin hq => ?port⟩⟩
  case fetch =>
    rw [exec_grant_fetch hs hfree (s.fetchRequests_iff.mpr ⟨f, hf, hfetch⟩), State.grantFetch, hf]
  case nothing =>
    exact exec_grant_nothing hs hfree (mt s.fetchRequests_iff.mp hfetch) fun c => by
      cases c with
      | urgent => exact hnone hu
      | normal => exact hnone hn
  case port =>
    intro P address settled
    have hfirst : s.firstIn c = some p := State.firstIn_eq_some hp hmin
    have hclass : s.chosenClass = c := by
      cases c with
      | urgent => exact State.chosenClass_urgent (by simp [hfirst]) fun hrun => hnone (hguard rfl hrun)
      | normal => exact State.chosenClass_normal (by simp [hfirst]) ((hturn rfl).imp_left hnone)
    have hset : P.translationSettled r.work = true ↔ settled := Port.translationSettled_iff
    have hport (Q : Port) (a : Arbiter) (b : Option Access) :
        State.port { s.setPort p Q with arbiter := a, access := b } p = Q := s.port_setPort_same p Q
    have hexec : exec .grant s = .next (s.grantPort c p) :=
      exec_grant_port hs hfree (mt s.fetchRequests_iff.mp hfetch) hclass hfirst
    refine ⟨_, hexec.trans (congrArg _ (State.grantPort_eq c hp.1 hq)), s.grantedArbiter_holder c p, ?pointerUrgent,
      ?pointerNormal, ?unopposed, ?opposed, ?burst, fun h => ?lookup,
      fun h => ⟨?noLookup, fun hin => ?inbound, fun hout hm => ?unmapped, fun l hout hm hl => ?mapped⟩,
      fun q hqp => s.port_setPort_ne _ hqp, rfl, rfl, rfl, rfl, rfl, rfl⟩
    case pointerUrgent => rintro rfl; exact ⟨rfl, rfl⟩
    case pointerNormal => rintro rfl; exact ⟨rfl, rfl, rfl⟩
    case unopposed => rintro rfl hn; exact State.urgentRun_unopposed (hnone hn)
    case opposed => rintro rfl hn; exact State.urgentRun_opposed (hsome hn)
    case burst =>
      rw [hport]
      exact Port.granted_eq (Port.isMove_of_requests hp.1 hq)
    case lookup =>
      have hunset : P.translationSettled r.work = false := eq_false_of_ne_true (mt hset.mp h)
      refine ⟨?_, State.grantAccess_unchanged (.inl hunset)⟩
      rw [hport]
      simp [Port.granted, P, hunset]
    case noLookup =>
      rw [hport]
      simp [Port.granted, P, hset.mpr h]
    case inbound => exact State.grantAccess_unchanged (.inr hin)
    case unmapped =>
      refine (State.grantAccess_reads (hset.mpr h) hout).trans ?_
      rw [Work.physicalAddress_unmapped hm]
    case mapped =>
      refine (State.grantAccess_reads (hset.mpr h) hout).trans ?_
      rw [hl, Work.physicalAddress_mapped hm]

end Sys2Proof.Machine
end

section
/-! Reads and writes of the window map's entries: detections (R124), the accesses of MAPDATA (R121, R122), the map's
initialisation (R112) and disturbances (R123). -/

namespace Sys2Proof.Machine

/-! ### Detections (R124) -/

section
variable {m : MapUnit} {i : Nat} {e : MapEntry}

/-- What a detection meets: an entry that it leaves as it is, a one-bit disturbance, or one of two bits. -/
theorem MapEntry.detection_cases (e : MapEntry) :
    (e.poisoned = true ∨ e.disturbance = .none) ∨ (e.poisoned = false ∧ e.disturbance = .oneBit) ∨
      (e.poisoned = false ∧ e.disturbance = .twoBits) := by
  cases e.poisoned <;> cases e.disturbance <;> decide

theorem MapEntry.detected_of_settled (h : e.poisoned = true ∨ e.disturbance = .none) : e.detected = e := by
  rcases h with h | h <;> simp [MapEntry.detected, h]

theorem MapEntry.detected_of_oneBit (hp : e.poisoned = false) (hd : e.disturbance = .oneBit) :
    e.detected = { e with disturbance := .none } := by
  simp [MapEntry.detected, hp, hd]

theorem MapEntry.detected_of_twoBits (hp : e.poisoned = false) (hd : e.disturbance = .twoBits) :
    e.detected = { e with poisoned := true, disturbance := .none } := by
  simp [MapEntry.detected, hp, hd]

/-- A detection keeps what was written to the entry. -/
theorem MapEntry.detected_contents (e : MapEntry) : e.detected.contents = e.contents := by
  rcases e.detection_cases with h | ⟨hp, hd⟩ | ⟨hp, hd⟩
  · rw [MapEntry.detected_of_settled h]
  · rw [MapEntry.detected_of_oneBit hp hd]
  · rw [MapEntry.detected_of_twoBits hp hd]

theorem MapUnit.detect_of_settled (h : (m.entry i).poisoned = true ∨ (m.entry i).disturbance = .none) :
    m.detect i = m := by
  rcases h with h | h <;> simp [MapUnit.detect, h]

theorem MapUnit.detect_of_oneBit (hp : (m.entry i).poisoned = false) (hd : (m.entry i).disturbance = .oneBit) :
    m.detect i = { m.setEntry i (m.entry i).detected with
      correctedFlag := true, corrections := min 255 (m.corrections + 1) } := by
  simp [MapUnit.detect, hp, hd]

theorem MapUnit.detect_of_twoBits (hp : (m.entry i).poisoned = false) (hd : (m.entry i).disturbance = .twoBits) :
    m.detect i = { m.setEntry i (m.entry i).detected with poisonedFlag := true } := by
  simp [MapUnit.detect, hp, hd]

/-- A detection changes the entries, the map's two flags of a detection and the correction count alone. -/
theorem MapUnit.detect_eq (m : MapUnit) (i : Nat) :
    m.detect i = { m with
      entries := (m.detect i).entries, correctedFlag := (m.detect i).correctedFlag
      corrections := (m.detect i).corrections, poisonedFlag := (m.detect i).poisonedFlag } := by
  rcases (m.entry i).detection_cases with h | ⟨hp, hd⟩ | ⟨hp, hd⟩
  · rw [MapUnit.detect_of_settled h]
  · rw [MapUnit.detect_of_oneBit hp hd]; rfl
  · rw [MapUnit.detect_of_twoBits hp hd]; rfl

theorem MapUnit.detect_mapIndex (m : MapUnit) (i : Nat) : (m.detect i).mapIndex = m.mapIndex := by
  rw [m.detect_eq i]

end

/-! ### MAPDATA (R121, R122) -/

section
variable {s : State}

theorem exec_mapdataWrite_busy (hs : s.Live) (hb : s.win.initBusy = true) (v : Word) :
    exec (.mapdataWrite v) s = .next s.ignoreWrite :=
  congrArg Host.Outcome.next ((State.unlessReset_live hs _).trans (if_pos hb))

theorem exec_mapdataWrite (hs : s.Live) (hb : s.win.initBusy = false) (v : Word) :
    exec (.mapdataWrite v) s =
      .next { s with map := s.map.writeEntry s.map.mapIndex (mapContentsOfWord v) } :=
  congrArg Host.Outcome.next ((State.unlessReset_live hs _).trans (if_neg (ne_true_of_eq_false hb)))

theorem exec_mapdataRead_busy (hs : s.Live) (hb : s.win.initBusy = true) :
    exec (.mapdataRead false) s = .next (s.answerRead 0) :=
  congrArg Host.Outcome.next ((State.windowRead_live hs _).trans (if_pos hb))

/-- The part after a MAPDATA read: the entry of MAPINDEX detected, and shown as it then stands. -/
def State.mapdataShown (s : State) : State :=
  { s with
    map := s.map.detect s.map.mapIndex
    win := { s.win with hostRead := ((s.map.detect s.map.mapIndex).entry s.map.mapIndex).toWord } }

theorem exec_mapdataRead (hs : s.Live) (hb : s.win.initBusy = false) :
    exec (.mapdataRead false) s = .next s.mapdataShown := by
  refine congrArg Host.Outcome.next
    ((State.windowRead_live hs _).trans ((if_neg (ne_true_of_eq_false hb)).trans ?_))
  dsimp only
  rw [MapUnit.detect_mapIndex]
  rfl

end

/-- Settles O36: a write by the rules of the table, a read by what its detection meets. -/
theorem mapdataAccessed : Obligations.MapdataAccessed := by
  unfold Obligations.MapdataAccessed
  intro v s hs hwf i e
  obtain ⟨hsame, hother⟩ := MapUnit.detect_spec hwf i
  have hshown (h : s.map.detect i = s.map) : s.mapdataShown = { s with
      win := { s.win with hostRead := s.mapdataShown.win.hostRead } } := by
    simp only [State.mapdataShown, i] at h ⊢
    rw [h]
  have hcontents : ((s.map.detect i).entry i).contents = e.contents := by rw [hsame, MapEntry.detected_contents]
  obtain ⟨hframe, hvalid, hread, hwrite, hpoisoned, hzero⟩ := ((s.map.detect i).entry i).toWord_fields
  rw [hcontents] at hframe hvalid hread hwrite
  refine ⟨fun hb => ⟨exec_mapdataWrite_busy hs hb v, exec_mapdataRead_busy hs hb⟩, fun hb =>
    ⟨⟨_, exec_mapdataWrite hs hb v, ?written, fun j hj => MapUnit.entry_setEntry_ne s.map hj _, rfl⟩,
      ⟨_, exec_mapdataRead hs hb, hother, hcontents, hframe, hvalid, hread, hwrite, hpoisoned, hzero,
        fun h => ⟨hsame.trans (MapEntry.detected_of_settled h), hshown (MapUnit.detect_of_settled h)⟩,
        fun hp hd => ⟨hsame.trans (MapEntry.detected_of_oneBit hp hd), ?corrected⟩,
        fun hp hd => ⟨hsame.trans (MapEntry.detected_of_twoBits hp hd), ?poisoned⟩⟩⟩⟩
  case written => rw [← mapContentsOfWord_eq]; exact MapUnit.entry_setEntry_same hwf i _
  case corrected => simp only [State.mapdataShown]; rw [MapUnit.detect_of_oneBit hp hd]; rfl
  case poisoned => simp only [State.mapdataShown]; rw [MapUnit.detect_of_twoBits hp hd]; rfl

/-! ### The map initialisation (R112) -/

/-- Of a table cut off at an index the entries below it stand, and the others are as initialised. -/
theorem entryAt_filter_lt (l : List (Nat × MapEntry)) (n j : Nat) :
    entryAt (l.filter fun x => decide (x.1 < n)) j = if j < n then entryAt l j else .initial := by
  induction l with
  | nil => simp [entryAt]
  | cons x rest ih =>
    obtain ⟨k, e⟩ := x
    by_cases hk : k < n
    · rw [List.filter_cons_of_pos (by simpa using hk)]
      by_cases hj : k = j
      · simp [entryAt, hj, hj ▸ hk]
      · simp [entryAt, hj, ih]
    · rw [List.filter_cons_of_neg (by simpa using hk), ih]
      by_cases hj : j < n
      · have hne : k ≠ j := by omega
        simp [entryAt, hj, hne]
      · simp [hj]

section
variable {s : State}

theorem exec_initEvents_ignored (hs : s.Live) (hb : s.win.initBusy = false) :
    exec .initEntryWritten s = .next s ∧ exec .initEnd s = .next s :=
  ⟨congrArg Host.Outcome.next ((State.unlessReset_live hs _).trans (if_neg (ne_true_of_eq_false hb))),
    congrArg Host.Outcome.next ((State.unlessReset_live hs _).trans (if_neg (ne_true_of_eq_false hb)))⟩

theorem exec_initEntryWritten (hs : s.Live) (hb : s.win.initBusy = true) (hn : s.map.initNext < 1024) :
    exec .initEntryWritten s = .next { s with
      map := { s.map.writeEntry s.map.initNext .initial with initNext := s.map.initNext + 1 } } := by
  refine congrArg Host.Outcome.next ((State.unlessReset_live hs _).trans ((if_pos hb).trans ?_))
  rw [MapUnit.initEntry, if_pos hn]

theorem exec_initEnd (hs : s.Live) (hb : s.win.initBusy = true) :
    exec .initEnd s = .next { s with map := s.map.initRest, win := { s.win with initBusy := false } } :=
  congrArg Host.Outcome.next ((State.unlessReset_live hs _).trans (if_pos hb))

end

/-- Settles O37: one entry written, or the table cut off at the next one. -/
theorem mapInitialised : Obligations.MapInitialised := by
  unfold Obligations.MapInitialised
  intro s hs hwf blank
  refine ⟨exec_initEvents_ignored hs, fun hb hn => ⟨_, exec_initEntryWritten hs hb hn,
      MapUnit.entry_setEntry_same hwf _ _, fun j hj => MapUnit.entry_setEntry_ne s.map hj _, rfl⟩,
    fun hb => ⟨_, exec_initEnd hs hb, fun j hj => ?left, fun j hj => ?kept, rfl⟩⟩
  case left => exact (entryAt_filter_lt _ _ _).trans (if_neg (Nat.not_lt.mpr hj))
  case kept => exact (entryAt_filter_lt _ _ _).trans (if_pos hj)

/-! ### Disturbances (R123) -/

section
variable {e : MapEntry}

/-- A POISONED entry absorbs a disturbance. -/
theorem MapEntry.disturb_of_poisoned (hp : e.poisoned = true) (size : DisturbanceSize) : e.disturb size = e :=
  if_pos hp

theorem MapEntry.disturb_oneBit (hp : e.poisoned = false) (hd : e.disturbance = .none) :
    e.disturb .oneBit = { e with disturbance := .oneBit } := by
  simp [MapEntry.disturb, hp, hd]

/-- A second disturbance, or one of two bits, leaves TWO BITS. -/
theorem MapEntry.disturb_twoBits {size : DisturbanceSize} (hp : e.poisoned = false)
    (h : e.disturbance ≠ .none ∨ size = .twoBits) : e.disturb size = { e with disturbance := .twoBits } := by
  obtain ⟨contents, poisoned, disturbance⟩ := e
  subst hp
  cases disturbance with
  | none =>
    rcases h with h | rfl
    · exact absurd rfl h
    · rfl
  | oneBit | twoBits => cases size <;> rfl

end

/-- Settles O38: the entry disturbed is written back, by the disturbance that it meets. -/
theorem disturbanceTaken : Obligations.DisturbanceTaken := by
  unfold Obligations.DisturbanceTaken
  intro index size s hs hwf e
  have hentry := MapUnit.entry_setEntry_same hwf index.val (e.disturb size)
  refine ⟨_, congrArg Host.Outcome.next (State.unlessReset_live hs _),
    fun j hj => MapUnit.entry_setEntry_ne s.map hj _, fun hp => ?absorbed, fun hp hd h1 => ?oneBit,
    fun hp h => ?twoBits, rfl⟩
  case absorbed => exact hentry.trans (MapEntry.disturb_of_poisoned hp size)
  case oneBit => subst h1; exact hentry.trans (MapEntry.disturb_oneBit hp hd)
  case twoBits => exact hentry.trans (MapEntry.disturb_twoBits hp h)

end Sys2Proof.Machine
end

section
/-! LOOKUP (R89 to R91, R115 to R118): the checks of Table 7-2 in their order, the fault that ends the record, and the
latch that the lookup loads. -/

namespace Sys2Proof.Machine

/-! ### The checks of an entry (Table 7-2) -/

section
variable {e : MapEntry} {d : Direction}

/-- An entry lets a burst of a direction through: WRITE for an inbound one, READ for an outbound one. -/
def MapEntry.permits (e : MapEntry) (d : Direction) : Bool :=
  if d = .inbound then e.contents.write else e.contents.read

theorem MapEntry.lookupFault_poisoned (hp : e.poisoned = true) : e.lookupFault d = some .poisoned := if_pos hp

theorem MapEntry.lookupFault_invalid (hp : e.poisoned = false) (hv : e.contents.valid = false) :
    e.lookupFault d = some .invalid := by
  simp [MapEntry.lookupFault, hp, hv]

theorem MapEntry.lookupFault_denied (hp : e.poisoned = false) (hv : e.contents.valid = true)
    (h : e.permits d = false) : e.lookupFault d = some (if d = .inbound then .noWrite else .noRead) := by
  cases d <;> simp_all [MapEntry.lookupFault, MapEntry.permits]

theorem MapEntry.lookupFault_none (hp : e.poisoned = false) (hv : e.contents.valid = true)
    (h : e.permits d = true) : e.lookupFault d = none := by
  cases d <;> simp_all [MapEntry.lookupFault, MapEntry.permits]

end

/-! ### The lookup at its port -/

section
variable {s : State} {p : PortId} {r : Record} {rest : List Slot} {w : Work} {d : Direction} {cause : LookupCause}
  {page : Nat} {e : MapEntry}

theorem exec_lookup_unrequested (hs : s.Live) (h : (s.port p).lookupRequest = false) :
    exec (.lookup p) s = .next s :=
  congrArg Host.Outcome.next ((State.unlessReset_live hs _).trans (if_neg (ne_true_of_eq_false h)))

theorem exec_lookup (hs : s.Live) (h : (s.port p).lookupRequest = true) (hc : (s.port p).currentData = some w)
    (hd : w.dir = some d) : exec (.lookup p) s = .next (s.lookup p w d) := by
  refine congrArg Host.Outcome.next ((State.unlessReset_live hs _).trans ((if_pos h).trans ?_))
  simp only [hc, hd]

/-- The part after the detection that a lookup makes of an entry (R124). -/
def State.looked (s : State) (i : Nat) : State := { s with map := s.map.detect i }

theorem State.lookup_outside (h : (s.port p).window.span ≤ w.pageAt (s.port p).burstStart) :
    s.lookup p w d = s.lookupFaulted p .outsideWindow (w.pageAt (s.port p).burstStart) := if_pos h

/-- Inside the window the entry decides, as its detection leaves it. -/
theorem State.lookup_inside {i : Nat} (hpage : w.pageAt (s.port p).burstStart = page)
    (hi : (s.port p).window.base + page = i) (h : page < (s.port p).window.span) (hwf : s.map.wf) :
    s.lookup p w d = (((s.map.entry i).detected.lookupFault d).elim
      ((s.looked i).lookupPassed p w page (s.map.entry i).detected) fun cause =>
        (s.looked i).lookupFaulted p cause page) := by
  subst hpage hi
  refine (if_neg (Nat.not_le.mpr h)).trans ?_
  rw [(MapUnit.detect_spec hwf _).1]
  cases (s.map.entry _).detected.lookupFault d <;> rfl

/-- A lookup that faults ends the record at its burst; its request goes with it (R91). -/
theorem State.lookupFaulted_fails (hq : (s.port p).queue = ⟨r, .current⟩ :: rest)
    (hrest : ∀ slot ∈ rest, slot.stage = .queued) (hd : r.work.dir ≠ none) :
    s.FailsAt (s.lookupFaulted p cause page) p (s.port p) r .mapFault (.mapFault cause page) :=
  State.endHere_setPort_fails (P := { s.port p with lookupRequest := false }) hq hrest hd rfl (.mapFault cause page)

/-- With RDY present a burst whose translation is settled goes on: an outbound one reads its first word (R92, R93). -/
theorem State.translated_of_ready (hy : (s.port p).rdyLine = true) :
    s.translated p w = { s with
      access := if w.dir = some .outbound then
        some (.read (w.physicalAddress (s.port p).latch (s.port p).position)) else s.access } := by
  unfold State.translated
  split
  · rfl
  · exact State.wantWord_of_ready hy

/-- The part after a lookup has loaded the latch of its port, its request gone (R116, R120). -/
def State.latched (s : State) (p : PortId) (l : Latch) : State :=
  { s.setPort p { s.port p with lookupRequest := false, latch := some l } with
    map := if (s.port p).latch.isSome then s.map.leaveFence p else s.map }

theorem State.latched_port_same (s : State) (p : PortId) (l : Latch) :
    (s.latched p l).port p = { s.port p with lookupRequest := false, latch := some l } := s.port_setPort_same p _

theorem State.latched_eq (s : State) (p : PortId) (l : Latch) :
    (s.modPort p fun P => { P with lookupRequest := false }).loadLatch p l = s.latched p l := by
  rw [State.loadLatch_eq, State.port_modPort_same, State.modPort_eq, State.setPort_setPort]
  rfl

/-- With RDY present a lookup that passes loads the latch, and its burst goes on (R116). -/
theorem State.lookupPassed_eq (hq : (s.port p).queue = ⟨r, .current⟩ :: rest) (hd : r.work.dir ≠ none)
    (hrun : (s.port p).state = .running) (hph : (s.port p).phase = .transferring) (hy : (s.port p).rdyLine = true) :
    s.lookupPassed p r.work page e = { s.latched p ⟨page, e.contents.frame⟩ with
      access := if r.work.dir = some .outbound then
        some (.read (r.work.physicalAddress (some ⟨page, e.contents.frame⟩) (s.port p).position)) else s.access } := by
  have hport := s.latched_port_same p ⟨page, e.contents.frame⟩
  rw [State.lookupPassed, State.latched_eq, State.translated_of_ready (by rw [hport]; exact hy), hport]
  refine State.serve_of_burst (r := r) (rest := rest) ?_ ?_ hd ?_ <;>
    simp only [State.port_mk, State.getElem_ports, hport]
  · exact hrun
  · exact hq
  · simp [hph]

end

/-- Settles O50, check by check. -/
theorem lookupTaken : Obligations.LookupTaken := by
  unfold Obligations.LookupTaken
  intro p s r rest d hs P hq hrest hd
  have hdata : r.work.dir ≠ none := by simp [hd]
  refine ⟨exec_lookup_unrequested hs, fun hreq => ?_⟩
  intro page index looked e allowed faults
  have hexec := exec_lookup hs hreq (Port.currentData_of_queue hq hdata) hd
  refine ⟨fun hspan => ?outside, fun hspan hwf => ?inside⟩
  case outside =>
    refine ⟨_, hexec, ?_⟩
    rw [State.lookup_outside hspan]
    exact State.lookupFaulted_fails hq hrest hdata
  case inside =>
    rw [State.lookup_inside (page := page) (i := index) rfl rfl hspan hwf] at hexec
    have hfaults {cause : LookupCause} (h : e.lookupFault d = some cause) : faults looked cause := by
      refine ⟨_, hexec, ?_⟩
      rw [show (s.map.entry index).detected.lookupFault d = some cause from h]
      exact State.lookupFaulted_fails (s := looked) hq hrest hdata
    refine ⟨fun hp => hfaults (MapEntry.lookupFault_poisoned hp),
      fun hp hv => hfaults (MapEntry.lookupFault_invalid hp hv),
      fun hp hv ha => hfaults (MapEntry.lookupFault_denied hp hv ha),
      fun hp hv ha _ hm hy hrun hph => ?passes⟩
    case passes =>
      have hnone : (s.map.entry index).detected.lookupFault d = none := MapEntry.lookupFault_none hp hv ha
      rw [hexec, hnone, Option.elim_none, State.lookupPassed_eq (s := s.looked index) hq hdata hrun hph hy,
        Work.physicalAddress_mapped hm, hd]
      simp only [Option.some.injEq]
      rfl

end Sys2Proof.Machine
end

section
/-! The laws of the map unit (R111, R121, R125, R134, R138, R139, law 11): the table keeps its canonical form and its ranges
under every write, and the fence its law as ports load and drop their latches. -/

namespace Sys2Proof.Machine

/-! ### The table's law -/

/-- Every index that a patch in flight holds names an entry (R134). -/
abbrev Flight.InTable (f : Flight) : Prop := (∀ i ∈ f.index, i < 1024) ∧ ∀ pair ∈ f.staging, pair.1 < 1024

section
variable {m : MapUnit}

/-- An entry past the table reads as initialised, so its detection changes nothing. -/
theorem MapUnit.detect_of_ge (hm : m.wf) {i : Nat} (hi : 1024 ≤ i) : m.detect i = m := by
  obtain ⟨-, hkeys⟩ := hm
  have hentry : m.entry i = .initial := entryAt_of_notMem fun x hx => by
    have := (hkeys x hx).1
    omega
  exact MapUnit.detect_of_settled (.inr (by rw [hentry]; rfl))

theorem MapUnit.TableLaw.mapIndex_lt (h : m.TableLaw) : m.mapIndex < 1024 := by
  obtain ⟨-, hindex, -⟩ := h
  exact hindex

theorem MapUnit.TableLaw.withEngine (h : m.TableLaw) {engine : Option Flight} (he : ∀ f ∈ engine, f.InTable) :
    ({ m with engine := engine } : MapUnit).TableLaw := by
  obtain ⟨hwf, hindex, hcount, -⟩ := h
  exact ⟨hwf, hindex, hcount, he⟩

theorem MapUnit.TableLaw.setEntry (h : m.TableLaw) {i : Nat} (hi : i < 1024) (e : MapEntry) :
    (m.setEntry i e).TableLaw := by
  obtain ⟨hwf, hindex, hcount, hengine⟩ := h
  exact ⟨MapUnit.wf_setEntry hwf hi e, hindex, hcount, hengine⟩

theorem MapUnit.TableLaw.detect (h : m.TableLaw) (i : Nat) : (m.detect i).TableLaw := by
  by_cases hi : i < 1024
  · obtain ⟨hwf, hindex, hcount, hengine⟩ := h.setEntry hi (m.entry i).detected
    rcases (m.entry i).detection_cases with hs | ⟨hp, hd⟩ | ⟨hp, hd⟩
    · rw [MapUnit.detect_of_settled hs]; exact h
    · rw [MapUnit.detect_of_oneBit hp hd]; exact ⟨hwf, hindex, Nat.min_le_left _ _, hengine⟩
    · rw [MapUnit.detect_of_twoBits hp hd]; exact ⟨hwf, hindex, hcount, hengine⟩
  · rw [MapUnit.detect_of_ge h.1 (Nat.le_of_not_lt hi)]; exact h

theorem MapUnit.TableLaw.commit (h : m.TableLaw) {pairs : List (Nat × MapContents)}
    (hpairs : ∀ pair ∈ pairs, pair.1 < 1024) : (m.commit pairs).TableLaw := by
  induction pairs generalizing m with
  | nil => exact h
  | cons x rest ih =>
    exact ih (h.setEntry (hpairs x (by simp)) ⟨x.2, false, .none⟩) fun y hy => hpairs y (by simp [hy])

theorem MapUnit.TableLaw.initEntry (h : m.TableLaw) : m.initEntry.TableLaw := by
  unfold MapUnit.initEntry
  split
  next hi => exact h.setEntry hi _
  next => exact h

theorem MapUnit.initEntry_fencePending (m : MapUnit) : m.initEntry.fencePending = m.fencePending := by
  unfold MapUnit.initEntry
  split <;> rfl

theorem MapUnit.initEntry_fenceSet (m : MapUnit) : m.initEntry.fenceSet = m.fenceSet := by
  unfold MapUnit.initEntry
  split <;> rfl

theorem MapUnit.TableLaw.initRest (h : m.TableLaw) : m.initRest.TableLaw := by
  obtain ⟨⟨hsorted, hkeys⟩, hindex, hcount, hengine⟩ := h
  exact ⟨⟨hsorted.filter _, fun x hx => hkeys x (List.mem_of_mem_filter hx)⟩, hindex, hcount, hengine⟩

/-- A soft reset keeps the table and the count, and leaves the engine FREE (R113, R137). -/
theorem MapUnit.TableLaw.softReset (h : m.TableLaw) : m.softReset.TableLaw := by
  obtain ⟨hwf, -, hcount, -⟩ := h
  exact ⟨hwf, Nat.zero_lt_succ _, hcount, nofun⟩

theorem MapUnit.TableLaw.leaveFence (h : m.TableLaw) (p : PortId) : (m.leaveFence p).TableLaw := by
  rw [m.leaveFence_eq p]; exact h

theorem MapUnit.TableLaw.disownPatch (h : m.TableLaw) (p : PortId) : (m.disownPatch p).TableLaw := by
  obtain ⟨-, -, -, hengine⟩ := id h
  refine h.withEngine fun f hf => ?_
  obtain ⟨f0, hf0, rfl⟩ := Option.map_eq_some_iff.mp hf
  split <;> exact hengine f0 hf0

end

/-! ### The fence's law -/

/-- The last port to leave completes the fence (R139). -/
theorem MapUnit.leaveFence_pending {m : MapUnit} (h : m.fencePending = true ↔ m.fenceSet.isEmpty = false)
    (p : PortId) : (m.leaveFence p).fencePending = true ↔ (m.leaveFence p).fenceSet.isEmpty = false := by
  unfold MapUnit.leaveFence
  by_cases hmem : m.fenceSet.mem p = true
  · have hpending : m.fencePending = true := h.mpr <| Bool.eq_false_iff.mpr fun hempty => by
      simp [(PortSet.isEmpty_iff _).mp hempty p] at hmem
    simp only [hmem, if_true, hpending, Bool.true_and]
    cases hrest : (m.fenceSet.erase p).isEmpty <;> simp [hrest]
  · simpa only [if_neg hmem] using h

/-- The laws of the map unit in a state. -/
abbrev State.MapLaw (s : State) : Prop := s.map.TableLaw ∧ s.FenceLaw

section
variable {s t : State}

theorem State.MapLaw.table (h : s.MapLaw) : s.map.TableLaw := h.1

/-- Blocks other than the map unit do not touch its laws, and a port that keeps its latch valid may stay in the fence set. -/
theorem State.MapLaw.of_same (h : s.MapLaw) (hmap : t.map = s.map)
    (hlatch : ∀ q, (s.port q).latch.isSome = true → (t.port q).latch.isSome = true) : t.MapLaw := by
  obtain ⟨htable, hpending, hset⟩ := h
  refine ⟨hmap ▸ htable, hmap ▸ hpending, fun q hq => hlatch q (hset q ?_)⟩
  rw [← hmap]; exact hq

/-- The map unit changes apart from its fence. -/
theorem State.MapLaw.withMap (h : s.MapLaw) {m : MapUnit} (htable : m.TableLaw)
    (hpending : m.fencePending = s.map.fencePending) (hset : m.fenceSet = s.map.fenceSet) :
    ({ s with map := m } : State).MapLaw := by
  obtain ⟨-, hfence, hlatched⟩ := h
  refine ⟨htable, ?_, fun q hq => hlatched q ?_⟩
  · show m.fencePending = true ↔ m.fenceSet.isEmpty = false
    rw [hpending, hset]; exact hfence
  · rw [← hset]; exact hq

theorem State.MapLaw.setPort (h : s.MapLaw) {p : PortId} {P : Port}
    (hP : (s.port p).latch.isSome = true → P.latch.isSome = true) : (s.setPort p P).MapLaw := by
  refine h.of_same rfl fun q hq => ?_
  rw [State.port_setPort]
  split
  next hqp => subst hqp; exact hP hq
  next => exact hq

theorem State.MapLaw.modPort (h : s.MapLaw) (p : PortId) {f : Port → Port}
    (hf : (f (s.port p)).latch = (s.port p).latch) : (s.modPort p f).MapLaw :=
  h.setPort fun hl => by rw [hf]; exact hl

theorem State.MapLaw.mapPorts (h : s.MapLaw) {f : PortId → Port → Port} (hf : ∀ q P, (f q P).latch = P.latch) :
    (s.mapPorts f).MapLaw :=
  h.of_same rfl fun q hq => by rw [State.port_mapPorts, hf]; exact hq

/-- A port that leaves the fence set may lose its latch with it (R120, R139). -/
theorem State.MapLaw.leaves (h : s.MapLaw) (p : PortId) (P : Port) :
    ({ s.setPort p P with map := s.map.leaveFence p } : State).MapLaw := by
  obtain ⟨htable, hpending, hset⟩ := h
  refine ⟨htable.leaveFence p, MapUnit.leaveFence_pending hpending p, fun q hq => ?_⟩
  obtain ⟨hmem, hne⟩ := Bool.and_eq_true_iff.mp ((MapUnit.leaveFence_mem _ _ _).symm.trans hq)
  show ((s.setPort p P).port q).latch.isSome = true
  rw [State.port_setPort_ne _ _ (of_decide_eq_true hne)]
  exact hset q hmem

/-- With no port in the fence set and no fence pending the fence's law holds. -/
theorem State.fenceLaw_of_empty (hset : s.map.fenceSet = .empty) (hpending : s.map.fencePending = false) :
    s.FenceLaw := by
  have hempty (q : PortId) : PortSet.mem .empty q = false := (PortSet.isEmpty_iff .empty).mp rfl q
  refine ⟨?_, fun q hq => ?_⟩
  · rw [hset, hpending]; decide
  · rw [hset, hempty] at hq; exact absurd hq Bool.false_ne_true

/-- FENCE fixes the set of the ports with a valid latch (R138). -/
theorem State.MapLaw.fence (h : s.MapLaw) : s.fence.MapLaw := by
  obtain ⟨htable, hpending, -⟩ := id h
  have hlatched (q : PortId) (hq : s.latchedPorts.mem q = true) : (s.port q).latch.isSome = true := by
    simpa [State.latchedPorts, PortSet.mem] using hq
  unfold State.fence
  split
  next => exact h
  next hidle =>
    dsimp only
    split
    next hempty => exact ⟨htable, ⟨fun hp => absurd hp hidle, fun hs => by simp [hempty] at hs⟩, hlatched⟩
    next hsome => exact ⟨htable, ⟨fun _ => eq_false_of_ne_true hsome, fun _ => rfl⟩, hlatched⟩

end

end Sys2Proof.Machine
end

section
/-! The map unit's laws under the operations that commands share: record ends, heads, bursts, lookups and patches each keep
them, a latch being given up only together with its place in the fence set (R120, R139). -/

namespace Sys2Proof.Machine

/-! ### Changes of a context that keep its latch -/

section
variable (P : Port)

@[simp] theorem Port.messageEffects_latch (w : Work) (st : Status) : (P.messageEffects w st).latch = P.latch := by
  have hrepair : (P.repairLines st).latch = P.latch := by
    unfold Port.repairLines
    repeat' split
    all_goals rfl
  have hfirst : (if st.cutsMessage then P.repairLines st else if st = .overrun then { P with resync := true }
      else P).latch = P.latch := by
    split_ifs
    · exact hrepair
    · rfl
    · rfl
  unfold Port.messageEffects
  dsimp only
  split_ifs at hfirst ⊢ <;> exact hfirst

@[simp] theorem Port.endEffects_latch (r : Record) (st : Status) : (P.endEffects r st).latch = P.latch := by
  unfold Port.endEffects
  split
  · exact P.messageEffects_latch _ _
  · rfl

@[simp] theorem Port.completeRetirement_latch (st : Status) : (P.completeRetirement st).latch = P.latch := by
  unfold Port.completeRetirement
  dsimp only
  split_ifs <;> rfl

@[simp] theorem Port.takeUp_latch (r : Record) (rest : List Slot) : (P.takeUp r rest).latch = P.latch := by
  unfold Port.takeUp
  dsimp only
  split
  · rfl
  · split_ifs <;> rfl

@[simp] theorem Port.settle_latch : P.settle.latch = P.latch := by rw [P.settle_keeps]

@[simp] theorem Port.skipMessage_latch : P.skipMessage.latch = P.latch := by
  unfold Port.skipMessage
  split <;> rfl

@[simp] theorem Port.flushMessage_latch : P.flushMessage.latch = P.latch := by
  unfold Port.flushMessage
  dsimp only
  split_ifs <;> rfl

@[simp] theorem Port.stallStep_latch : P.stallStep.latch = P.latch := by
  unfold Port.stallStep
  split <;> rfl

end

/-! ### Latches and the data path -/

section
variable {s : State}

theorem State.MapLaw.releaseBy (h : s.MapLaw) (p : PortId) : (s.releaseBy p).MapLaw :=
  h.of_same (s.releaseBy_map p) fun q hq => by rw [State.releaseBy_port]; exact hq

theorem State.MapLaw.dropLatch (h : s.MapLaw) (p : PortId) : (s.dropLatch p).MapLaw := h.leaves p _

theorem State.MapLaw.loadLatch (h : s.MapLaw) (p : PortId) (l : Latch) : (s.loadLatch p l).MapLaw := by
  rw [State.loadLatch_eq]
  split
  · exact h.leaves p _
  · exact h.setPort fun _ => rfl

/-! ### Record ends and retirements -/

theorem State.MapLaw.retire (h : s.MapLaw) (p : PortId) (st : Status) (needed : Bool) (rep : Report) :
    (s.retire p st needed rep).MapLaw := by
  have hdone : (s.modPort p (Port.completeRetirement st)).MapLaw := h.modPort p (Port.completeRetirement_latch _ st)
  unfold State.retire
  split_ifs
  · exact hdone
  · exact h.modPort p (f := Port.block st rep) rfl
  · exact hdone

theorem State.MapLaw.recordEnd (h : s.MapLaw) (p : PortId) (st : Status) (d : Detail) : (s.recordEnd p st d).MapLaw := by
  cases hc : (s.port p).current with
  | none => simpa only [State.recordEnd, hc] using h
  | some r =>
    rw [State.recordEnd_eq hc]
    refine ((h.dropLatch p).modPort p ?_).retire p st _ _
    exact Port.endEffects_latch _ r st

theorem State.MapLaw.endHere (h : s.MapLaw) (p : PortId) (st : Status) (d : Detail) : (s.endHere p st d).MapLaw :=
  (h.releaseBy p).recordEnd p st d

/-! ### Claims -/

theorem State.MapLaw.withdrawClaim (h : s.MapLaw) (p : PortId) : (s.withdrawClaim p).MapLaw :=
  h.withMap h.table rfl rfl

theorem State.MapLaw.takeClaim (h : s.MapLaw) (origin : Origin) (a : Word) (p : PortId) :
    (s.takeClaim origin a p).MapLaw := by
  refine h.withMap (h.table.withEngine fun f hf => ?_) rfl rfl
  obtain rfl := Option.some.inj hf
  exact ⟨nofun, nofun⟩

theorem State.MapLaw.raiseClaim (h : s.MapLaw) (p : PortId) (a : Word) : (s.raiseClaim p a).MapLaw := by
  unfold State.raiseClaim
  split
  · exact h.takeClaim _ a p
  · exact h.withMap h.table rfl rfl

theorem State.MapLaw.takeNextClaim (h : s.MapLaw) : s.takeNextClaim.MapLaw := by
  unfold State.takeNextClaim
  repeat' split
  · exact h
  · exact h.withdrawClaim _
  · exact (h.withdrawClaim _).takeClaim _ _ _

/-! ### Heads that become current -/

theorem State.MapLaw.examineFuel (n : Nat) (p : PortId) (h : s.MapLaw) : (State.examineFuel n p s).MapLaw := by
  induction n generalizing s with
  | zero => exact h
  | succ n ih =>
    have htake (slot : Slot) (rest : List Slot) : (s.setPort p ((s.port p).takeUp slot.record rest)).MapLaw :=
      h.setPort fun hl => by rw [Port.takeUp_latch]; exact hl
    unfold State.examineFuel
    split
    next =>
      split
      next => exact h
      next slot rest _ =>
        split
        next =>
          dsimp only
          split
          next st _ => exact ih ((htake slot rest).recordEnd p st .absent)
          next =>
            split
            next a _ => exact (htake slot rest).raiseClaim p a
            all_goals exact htake slot rest
        next => exact h
    next => exact h

theorem State.MapLaw.serve (h : s.MapLaw) (p : PortId) : (s.serve p).MapLaw :=
  (h.examineFuel _ p).modPort p (Port.settle_latch _)

theorem State.MapLaw.serveIdle (h : s.MapLaw) (p : PortId) : (s.serveIdle p).MapLaw := by
  unfold State.serveIdle
  split
  · exact h.serve p
  · exact h

/-! ### Bursts -/

theorem State.MapLaw.burstOver (h : s.MapLaw) (p : PortId) : (s.burstOver p).MapLaw := by
  have hwait : (s.modPort p fun P =>
      { P with phase := .waiting, inHand := none, lookupRequest := false, cut := none }).MapLaw := h.modPort p rfl
  unfold State.burstOver
  dsimp only
  split_ifs
  · exact hwait.recordEnd p .aborted .absent
  · exact hwait.modPort p rfl
  · exact hwait

theorem State.MapLaw.transferEnd (h : s.MapLaw) (p : PortId) : (s.transferEnd p).MapLaw := by
  unfold State.transferEnd
  repeat' split
  · exact h
  · exact (h.releaseBy p).modPort p rfl
  · exact (h.releaseBy p).burstOver p

theorem State.MapLaw.wantWord (h : s.MapLaw) (p : PortId) : (s.wantWord p).MapLaw := by
  unfold State.wantWord
  split
  · exact h
  · exact h.transferEnd p

theorem State.MapLaw.translated (h : s.MapLaw) (p : PortId) (w : Work) : (s.translated p w).MapLaw := by
  unfold State.translated
  split
  · exact h
  · exact h.wantWord p

theorem State.MapLaw.afterDelivery (h : s.MapLaw) (p : PortId) (w : Work) : (s.afterDelivery p w).MapLaw := by
  unfold State.afterDelivery
  dsimp only
  split_ifs
  · exact h.endHere p _ .absent
  · exact h.transferEnd p
  · exact h.wantWord p

theorem State.MapLaw.afterSending (h : s.MapLaw) (p : PortId) (w : Work) : (s.afterSending p w).MapLaw := by
  unfold State.afterSending
  dsimp only
  split_ifs
  · exact h.transferEnd p
  · exact h
  · exact h.wantWord p

theorem State.MapLaw.repeatBurst (h : s.MapLaw) (p : PortId) (w : Work) : (s.repeatBurst p w).MapLaw := by
  have hrefused (Q : Port) : (if Q.burstCarriedEnd w then { Q with endPassed := false } else Q).latch = Q.latch := by
    split <;> rfl
  unfold State.repeatBurst
  dsimp only
  split_ifs
  · refine ((h.releaseBy p).modPort p ?_).burstOver p
    exact hrefused _
  · exact (h.modPort p (hrefused _)).endHere p _ _

theorem State.MapLaw.cutRecord (h : s.MapLaw) (p : PortId) (c : Cut) (st : Status) : (s.cutRecord p c st).MapLaw := by
  unfold State.cutRecord
  dsimp only
  split_ifs
  · exact h
  · exact h
  · exact h.modPort p rfl
  · exact (h.endHere p st .absent).serve p

theorem State.MapLaw.confirmed (h : s.MapLaw) (p : PortId) (w : Work) : (s.confirmed p w).MapLaw := by
  have hcount : (s.modPort p fun P => { P.restartStall with moved := P.moved + P.exchanged }).MapLaw := h.modPort p rfl
  unfold State.confirmed
  dsimp only
  split_ifs
  · exact hcount.endHere p .done .absent
  · exact hcount.burstOver p

theorem State.MapLaw.deliver (h : s.MapLaw) (p : PortId) (w : Work) (v : Word) : (s.deliver p w v).MapLaw := by
  unfold State.deliver
  split
  · exact h
  · exact ((h.modPort p (f := Port.countInbound) rfl).afterDelivery p w).serve p

theorem State.MapLaw.cutAccessEnd (h : s.MapLaw) (p : PortId) (w : Work) (c : Cut) (outcome : AccessOutcome) :
    (s.cutAccessEnd p w c outcome).MapLaw := by
  have hcount (counted : Bool) : (if counted then s.modPort p Port.countInbound else s).MapLaw := by
    cases counted
    · exact h
    · exact h.modPort p (f := Port.countInbound) rfl
  unfold State.cutAccessEnd
  cases c with
  | detached => exact (hcount _).endHere p .detached .absent
  | periphFault => exact (hcount _).endHere p .periphFault .absent
  | repeatRequest => exact (hcount _).repeatBurst p w

theorem State.MapLaw.moveAccessEnd (h : s.MapLaw) (p : PortId) (w : Work) (outcome : AccessOutcome) :
    (s.moveAccessEnd p w outcome).MapLaw := by
  have hend : State.MapLaw { s with access := none } := h
  unfold State.moveAccessEnd
  dsimp only
  split
  next c _ => exact hend.cutAccessEnd p w c outcome
  next =>
    split
    next => exact hend.endHere p .busError .absent
    next =>
      split
      · exact (hend.modPort p rfl).wantWord p
      · exact (hend.modPort p (f := Port.countInbound) rfl).afterDelivery p w

/-! ### Grants and lookups -/

theorem State.MapLaw.startMove (h : s.MapLaw) (p : PortId) (w : Work) : (s.startMove p w).MapLaw := by
  have hstart : (s.modPort p (Port.startBurst w)).MapLaw := h.modPort p rfl
  unfold State.startMove
  dsimp only
  split_ifs
  · exact (hstart.translated p w).serve p
  · exact hstart.modPort p rfl

theorem State.MapLaw.grantPort (h : s.MapLaw) (c : PortClass) (p : PortId) : (s.grantPort c p).MapLaw := by
  have hgranted : State.MapLaw { s with arbiter := s.grantedArbiter c p } := h
  unfold State.grantPort
  split
  · exact h
  · exact hgranted.startMove p _

theorem State.MapLaw.grantFetch (h : s.MapLaw) : s.grantFetch.MapLaw := by
  obtain ⟨-, -, -, hengine⟩ := h.table
  unfold State.grantFetch
  split
  next => exact h
  next f hf =>
    refine h.withMap (h.table.withEngine fun f' hf' => ?_) rfl rfl
    obtain rfl := Option.some.inj hf'
    exact hengine f hf

theorem State.MapLaw.detect (h : s.MapLaw) (i : Nat) : ({ s with map := s.map.detect i } : State).MapLaw :=
  h.withMap (h.table.detect i) (by rw [s.map.detect_eq i]) (by rw [s.map.detect_eq i])

theorem State.MapLaw.lookupFaulted (h : s.MapLaw) (p : PortId) (cause : LookupCause) (page : Nat) :
    (s.lookupFaulted p cause page).MapLaw :=
  ((h.modPort p rfl).endHere p _ _).serve p

theorem State.MapLaw.lookupPassed (h : s.MapLaw) (p : PortId) (w : Work) (page : Nat) (e : MapEntry) :
    (s.lookupPassed p w page e).MapLaw :=
  (((h.modPort p rfl).loadLatch p _).translated p w).serve p

theorem State.MapLaw.lookup (h : s.MapLaw) (p : PortId) (w : Work) (dir : Direction) : (s.lookup p w dir).MapLaw := by
  unfold State.lookup
  dsimp only
  split
  · exact h.lookupFaulted p .outsideWindow _
  · split
    · exact (h.detect _).lookupFaulted p _ _
    · exact (h.detect _).lookupPassed p w _ _

/-! ### The patch fetch (R133 to R136) -/

theorem State.MapLaw.fetchNext (h : s.MapLaw) {f : Flight} (hf : f.InTable) : (s.fetchNext f).MapLaw := by
  refine h.withMap (h.table.withEngine fun f' hf' => ?_) rfl rfl
  obtain rfl := Option.some.inj hf'
  exact hf

theorem State.MapLaw.patchEnded (h : s.MapLaw) (f : Flight) (outcome : PatchOutcome) (st : Status) (d : Detail) :
    (s.patchEnded f outcome st d).MapLaw := by
  have hfree : State.MapLaw { s.release with
      map := { s.release.map with engine := none, lastOutcome := outcome, patchEnd := true } } :=
    State.MapLaw.withMap (s := s.release) h (h.table.withEngine (engine := none) nofun) rfl rfl
  unfold State.patchEnded
  dsimp only
  split
  next => exact hfree.takeNextClaim
  next p _ =>
    split
    · exact (hfree.takeNextClaim.recordEnd p st d).serve p
    · exact hfree.takeNextClaim

theorem State.MapLaw.patchApplied (h : s.MapLaw) {f : Flight} (hf : f.InTable) : (s.patchApplied f).MapLaw := by
  obtain ⟨-, hstaging⟩ := hf
  have hcommit : State.MapLaw { s with map := s.map.commit f.staging } :=
    h.withMap (h.table.commit hstaging) (by rw [MapUnit.commit_eq]) (by rw [MapUnit.commit_eq])
  exact hcommit.patchEnded f _ _ _

/-- An index word resolves to an entry of the table (R134). -/
theorem Flight.resolve_lt {f : Flight} {w : Word} {i : Nat} (h : f.resolve w = some i) : i < 1024 := by
  unfold Flight.resolve at h
  split_ifs at h with _ hw hw
  · obtain rfl := Option.some.inj h; exact hw.2
  · obtain rfl := Option.some.inj h; exact hw

theorem State.MapLaw.patchWord (h : s.MapLaw) {f : Flight} (hf : f.InTable) (w : Word) : (s.patchWord f w).MapLaw := by
  obtain ⟨hindex, hstaging⟩ := hf
  unfold State.patchWord
  dsimp only
  split
  next =>
    split
    · exact h.patchEnded _ _ _ _
    · exact h.fetchNext ⟨hindex, hstaging⟩
  next =>
    split
    next =>
      split
      next => exact h.patchEnded _ _ _ _
      next i hi =>
        refine h.fetchNext ⟨fun j hj => ?_, hstaging⟩
        obtain rfl := Option.some.inj hj
        exact Flight.resolve_lt hi
    next i hi =>
      have hstaged : ∀ pair ∈ f.staging ++ [(i, mapContentsOfWord w)], pair.1 < 1024 := fun pair hpair => by
        rcases List.mem_append.mp hpair with hold | hnew
        · exact hstaging pair hold
        · obtain rfl := List.mem_singleton.mp hnew
          exact hindex i hi
      split
      · exact h.patchApplied ⟨nofun, hstaged⟩
      · exact h.fetchNext ⟨nofun, hstaged⟩

theorem State.MapLaw.patchReadEnd (h : s.MapLaw) (outcome : AccessOutcome) : (s.patchReadEnd outcome).MapLaw := by
  obtain ⟨-, -, -, hengine⟩ := h.table
  unfold State.patchReadEnd
  split
  next => exact h
  next f hf =>
    split
    · split
      · exact h.patchEnded _ _ _ _
      · exact h.patchWord (hengine f hf) _
    · exact h

end

end Sys2Proof.Machine
end

section
/-! The map unit's laws under every step: the gates of the window, the port commands, and one case for each command. -/

namespace Sys2Proof.Machine

section
variable {s : State}

/-! ### The gates -/

theorem State.MapLaw.unlessReset (h : s.MapLaw) {f : State → State} (hf : (f s).MapLaw) : (s.unlessReset f).MapLaw := by
  unfold State.unlessReset
  split
  · exact h
  · exact hf

theorem State.MapLaw.command (h : s.MapLaw) {op : BitVec 4} {f : State → State} (hf : (f s).MapLaw) :
    (s.command op f).MapLaw := by
  refine h.unlessReset ?_
  split
  · exact h
  · exact hf

theorem State.MapLaw.portCommand (h : s.MapLaw) {op port : BitVec 4} {f : PortId → State → State}
    (hf : ∀ p, (f p s).MapLaw) : (s.portCommand op port f).MapLaw := by
  refine h.command ?_
  split
  · exact h
  · exact hf _

theorem State.MapLaw.windowRead (h : s.MapLaw) {narrow : Bool} {f : State → State} (hf : (f s).MapLaw) :
    (s.windowRead narrow f).MapLaw := by
  unfold State.windowRead
  split
  · exact h
  · exact hf

theorem State.MapLaw.lineEvent (h : s.MapLaw) {p : PortId} {level : Port → Port} {f : State → State}
    (hlevel : ∀ P : Port, (level P).latch = P.latch) (hf : ∀ {t : State}, t.MapLaw → (f t).MapLaw) :
    (s.lineEvent p level f).MapLaw := by
  have hl : (s.modPort p level).MapLaw := h.modPort p (hlevel _)
  unfold State.lineEvent
  split
  · exact hl
  · exact hf hl

/-! ### Port commands -/

/-- RESULT is no part of the map unit. -/
theorem State.MapLaw.accept (h : s.MapLaw) (op : BitVec 4) (v : Nat) : (s.accept op v).MapLaw := h

theorem State.MapLaw.post (h : s.MapLaw) (p : PortId) : (s.post p).MapLaw := by
  unfold State.post
  split
  next r _ _ => exact ((h.modPort p (f := Port.append r) rfl).accept 1 _).serveIdle p
  next => exact h

theorem State.MapLaw.withdrawCurrent (h : s.MapLaw) (p : PortId) (r : Record) : (s.withdrawCurrent p r).MapLaw := by
  unfold State.withdrawCurrent
  split_ifs
  · exact (h.modPort p rfl).accept 2 10
  · exact ((h.recordEnd p .aborted .absent).accept 2 9).serve p
  · exact h
  · exact (((h.withdrawClaim p).recordEnd p .aborted .absent).accept 2 9).serve p

theorem State.MapLaw.withdraw (h : s.MapLaw) (p : PortId) (tag : BitVec 16) : (s.withdraw p tag).MapLaw := by
  unfold State.withdraw
  split
  next => exact h
  next =>
    split
    next => exact h
    next =>
      split
      next => exact h
      next slot _ =>
        split_ifs
        · exact h.withdrawCurrent p slot.record
        · exact h
        · exact ((h.modPort p rfl).accept 2 8).serveIdle p

theorem State.MapLaw.enablePort (h : s.MapLaw) (p : PortId) : (s.enablePort p).MapLaw := by
  unfold State.enablePort
  split
  next => exact ((h.modPort p rfl).accept 3 _).serve p
  all_goals exact h

theorem State.MapLaw.disablePort (h : s.MapLaw) (p : PortId) : (s.disablePort p).MapLaw := by
  have hrest : (s.modPort p fun P => { P with state := .disabled }).MapLaw := h.modPort p rfl
  unfold State.disablePort
  split
  next => exact hrest
  next => exact hrest
  next => exact hrest
  all_goals exact h

theorem State.MapLaw.pausePort (h : s.MapLaw) (p : PortId) : (s.pausePort p).MapLaw := by
  have hpend : (s.modPort p fun P => { P with pausePending := true }).MapLaw := h.modPort p rfl
  unfold State.pausePort
  split
  next => exact h.modPort p (f := Port.pauseHolding) rfl
  next =>
    split
    · exact hpend
    · exact (h.withdrawClaim p).modPort p (f := Port.pauseHolding) rfl
  next => exact hpend
  all_goals exact h

theorem State.MapLaw.resumeHeld (h : s.MapLaw) (p : PortId) (r : Record) : (s.resumeHeld p r).MapLaw := by
  unfold State.resumeHeld
  split
  next a _ => exact (h.modPort p rfl).raiseClaim p a
  all_goals exact h.modPort p rfl

theorem State.MapLaw.resumePort (h : s.MapLaw) (op : BitVec 4) {halted : Port → Port} (p : PortId)
    (hhalted : ∀ P : Port, (halted P).latch = P.latch) : (s.resumePort op halted p).MapLaw := by
  unfold State.resumePort
  split
  next =>
    split
    next r _ => exact ((h.resumeHeld p r).accept op _).serve p
    next => exact ((h.modPort p rfl).accept op _).serve p
  next =>
    refine (State.MapLaw.accept (h.modPort p ?_) op _).serve p
    exact hhalted _
  next =>
    split
    · exact ((h.modPort p rfl).accept op _).serve p
    · exact h
  all_goals exact h

theorem State.MapLaw.postFlushed (h : s.MapLaw) (p : PortId) (n : Nat) : (s.postFlushed p n).MapLaw := by
  unfold State.postFlushed
  split <;> exact h

theorem State.MapLaw.flushTaken (h : s.MapLaw) (p : PortId) : (s.flushTaken p).MapLaw := by
  refine (State.MapLaw.accept (((h.dropLatch p).modPort p ?_).postFlushed p _) 8 _).serve p
  exact Port.flushMessage_latch _

theorem State.MapLaw.flushPort (h : s.MapLaw) (p : PortId) : (s.flushPort p).MapLaw := by
  have htaken : (if (s.port p).queue ≠ [] ∧ s.reports.full then s.refuseAt 8 .reportFull p
      else s.flushTaken p).MapLaw := by
    split
    · exact h
    · exact h.flushTaken p
  unfold State.flushPort
  split
  next => exact htaken
  next => exact htaken
  next => exact htaken
  next => exact htaken
  all_goals exact h

/-- A port that is reset has left the fence set with its latch; the patch in flight keeps its indices (R37, R136). -/
theorem State.MapLaw.resetPort (h : s.MapLaw) (p : PortId) : (s.resetPort p).MapLaw := by
  unfold State.resetPort
  split
  · exact h
  · have hleft : ((s.dropLatch p).withdrawClaim p).MapLaw := (h.dropLatch p).withdrawClaim p
    have hreset : (((s.dropLatch p).withdrawClaim p).modPort p (Port.reset (s.stateAfterReset p))).MapLaw :=
      hleft.modPort p (by simp [Port.reset, Port.powerOn, Port.setLatch])
    exact hreset.withMap (hleft.table.disownPatch p) rfl rfl

theorem State.MapLaw.hostPatch (h : s.MapLaw) (p : PortId) : (s.hostPatch p).MapLaw := by
  unfold State.hostPatch
  split_ifs
  · exact h
  · exact h
  · exact h.takeClaim .host _ p

/-! ### The report queue and the registers -/

theorem State.MapLaw.admitFirst (h : s.MapLaw) : s.admitFirst.MapLaw := by
  unfold State.admitFirst
  split
  next => exact h
  next p rest _ =>
    dsimp only
    split
    next => exact h
    next rep _ =>
      have hposted : State.MapLaw
          { s with reports := ({ s.reports with blocked := rest } : ReportQueue).post rep } := h
      exact (hposted.modPort p (Port.completeRetirement_latch _ rep.status)).serve p

theorem State.MapLaw.pop (h : s.MapLaw) : s.pop.MapLaw := by
  unfold State.pop
  split
  next => exact h
  next => exact (State.MapLaw.admitFirst (s := { s with reports := s.reports.removeHead }) h).accept 12 _

theorem State.MapLaw.plainWrite (h : s.MapLaw) (offset : BitVec 8) (v : Word) : (s.plainWrite offset v).MapLaw := by
  obtain ⟨hwf, -, hcount, hengine⟩ := h.table
  unfold State.plainWrite
  split
  next => exact h
  next => exact h
  next => exact h
  next => exact h
  next =>
    split
    next => exact h
    next hv =>
      simp only [Bool.or_eq_true, decide_eq_true_eq, not_or] at hv
      obtain ⟨-, hlow⟩ := hv
      have hindex : v.toNat < 1024 := by omega
      exact h.withMap (m := { s.map with mapIndex := v.toNat }) ⟨hwf, hindex, hcount, hengine⟩ rfl rfl
  all_goals exact h

theorem State.MapLaw.softReset (h : s.MapLaw) : s.softReset.MapLaw :=
  ⟨h.table.softReset, State.fenceLaw_of_empty rfl rfl⟩

theorem State.mapLaw_powerOn (ports : Vector Port 8) (cs : List Instr) :
    ({ State.reset with ports := ports, pending := cs } : State).MapLaw :=
  ⟨⟨MapUnit.wf_powerOn, Nat.zero_lt_succ _, Nat.zero_le _, nofun⟩, State.fenceLaw_of_empty rfl rfl⟩

end

/-! ### The commands -/

/-- Every command keeps the map unit's laws. -/
theorem exec_keeps_mapLaw {c : Instr} {s t : State} (h : s.MapLaw) (hc : exec c s = .next t) : t.MapLaw := by
  cases c <;> obtain rfl := Host.Outcome.next.inj hc
  case post => exact h.portCommand h.post
  case withdraw tag => exact h.portCommand fun p => h.withdraw p tag
  case enable => exact h.portCommand h.enablePort
  case disable => exact h.portCommand h.disablePort
  case pause => exact h.portCommand h.pausePort
  case resumeRecord => exact h.portCommand fun p => h.resumePort 6 p fun _ => rfl
  case resumeMessage => exact h.portCommand fun p => h.resumePort 7 p Port.skipMessage_latch
  case flush => exact h.portCommand h.flushPort
  case portReset => exact h.portCommand h.resetPort
  case patch => exact h.portCommand h.hostPatch
  case fence => exact h.command h.fence
  case pop => exact h.command h.pop
  case softReset =>
    refine h.unlessReset ?_
    split
    · exact h
    · exact h.softReset
  case ackpeek => exact h.windowRead h
  case acknest =>
    refine h.windowRead ?_
    unfold State.ackNest
    repeat' split
    all_goals exact h
  case mapdataWrite v =>
    refine h.unlessReset ?_
    split
    · exact h
    · exact h.withMap (h.table.setEntry h.table.mapIndex_lt _) rfl rfl
  case mapdataRead =>
    refine h.windowRead ?_
    split
    · exact h
    · exact h.detect _
  case mapstatClear => exact h.unlessReset (h.withMap h.table rfl rfl)
  case configWrite p f =>
    refine h.unlessReset ?_
    split
    · exact h.modPort p rfl
    · exact h
  case windowWrite p v =>
    refine h.unlessReset ?_
    split
    · exact h.modPort p rfl
    · exact h
  case portStatusClear p v => exact h.unlessReset (h.modPort p (f := Port.clearFlags v) rfl)
  case registerWrite offset narrow v =>
    refine h.unlessReset ?_
    split_ifs
    · exact h
    · exact h
    · exact h.plainWrite offset v
  case powerOnReset => exact State.mapLaw_powerOn _ _
  case resetAsserted => exact h
  case initEntryWritten =>
    refine h.unlessReset ?_
    split
    · exact h.withMap h.table.initEntry s.map.initEntry_fencePending s.map.initEntry_fenceSet
    · exact h
  case initEnd =>
    refine h.unlessReset ?_
    split
    · exact h.withMap h.table.initRest rfl rfl
    · exact h
  case disturbance index size => exact h.unlessReset (h.withMap (h.table.setEntry index.isLt _) rfl rfl)
  case attach p => exact h.lineEvent (fun _ => rfl) fun ht => (ht.modPort p rfl).serveIdle p
  case detach p => exact h.lineEvent (fun _ => rfl) fun ht => (ht.modPort p rfl).cutRecord p .detached .detached
  case flt p => exact h.unlessReset (h.cutRecord p .periphFault .periphFault)
  case rdyRise p => exact h.lineEvent (fun _ => rfl) fun ht => ht.modPort p (Port.settle_latch _)
  case rdyFall p =>
    refine h.lineEvent (fun _ => rfl) fun ht => ?_
    split
    · exact (ht.transferEnd p).serve p
    · exact ht
  case cnf p =>
    refine h.unlessReset ?_
    split
    next => exact h
    next w _ =>
      split
      · exact ((h.confirmed p w).serve p).modPort p (f := Port.markAnswered) rfl
      · exact h
  case rpt p =>
    refine h.unlessReset ?_
    split
    next => exact h
    next w _ =>
      have hrepeat : ((s.repeatBurst p w).serve p).MapLaw := (h.repeatBurst p w).serve p
      split
      next => exact hrepeat
      next =>
        split_ifs
        · exact h
        · exact h.modPort p rfl
        · exact h.modPort p rfl
        · exact hrepeat
      all_goals exact h
  case inboundWordTaken p v endMark =>
    refine h.unlessReset ?_
    split
    · split
      · exact (h.modPort p (f := Port.takeWord v endMark) rfl).deliver p _ v
      · exact h
    · exact h
  case outboundWordSent p =>
    refine h.unlessReset ?_
    split
    next v w _ _ =>
      split
      · exact ((h.modPort p (f := Port.sendWord w v) rfl).afterSending p w).serve p
      · exact h
    next => exact h
  case discardWord p v endMark =>
    refine h.unlessReset ?_
    split
    · exact (h.modPort p (f := Port.discardWord v endMark) rfl).serve p
    · exact h
  case grant =>
    refine h.unlessReset ?_
    split_ifs
    · exact h
    · exact h.grantFetch
    · split
      · exact h
      · exact h.grantPort _ _
  case lookup p =>
    refine h.unlessReset ?_
    repeat' split
    · exact h.lookup p _ _
    all_goals exact h
  case hostAccessEnd outcome =>
    refine h.unlessReset ?_
    split
    next => exact h
    next => exact h
    next p _ =>
      split_ifs
      · exact h
      · exact State.MapLaw.modPort (s := s.release) h p rfl
      · split
        · exact h
        · exact (h.moveAccessEnd p _ outcome).serve p
  case patchReadEnd outcome =>
    refine h.unlessReset ?_
    split
    · exact h.patchReadEnd outcome
    · exact h
  case resettingRelease p =>
    refine h.unlessReset ?_
    split
    · exact State.MapLaw.modPort (s := s.release) h p rfl
    · exact h
  case stallExpiry p =>
    refine h.unlessReset ?_
    split
    · exact (h.endHere p .stalled .absent).serve p
    · exact h
  case holdoffExpiry =>
    refine h.unlessReset ?_
    repeat' split
    all_goals exact h
  case canRelease p =>
    refine h.unlessReset ?_
    split
    · exact h.modPort p rfl
    · exact h
  case timeUnitStep => exact h.unlessReset (h.mapPorts fun _ => Port.stallStep_latch)
  case gctrlWrite | rqctrlWrite =>
    refine h.unlessReset ?_
    split <;> exact h
  all_goals exact h.unlessReset h

/-- The time base touches no map and no latch (R164). -/
theorem State.MapLaw.clockCycle {s : State} (h : s.MapLaw) : s.clockCycle.MapLaw := by
  unfold State.clockCycle
  split_ifs
  · exact h
  · exact h
  · exact h
  · exact h.mapPorts fun _ _ => rfl

/-- Settles O56: every command keeps the laws, and so does the time base. -/
theorem mapLawsKept : Obligations.MapLawsKept := by
  unfold Obligations.MapLawsKept
  intro s t htable hfence h
  have hs : s.MapLaw := ⟨htable, hfence⟩
  unfold step at h
  split at h
  next => obtain rfl := Host.Outcome.next.inj h; exact hs.clockCycle
  next c rest _ => exact exec_keeps_mapLaw (s := { s with pending := rest }) hs h

end Sys2Proof.Machine
end

section
/-! The commands PATCH and FENCE (R130, R138), and a port that leaves the fence set (R139). -/

namespace Sys2Proof.Machine

/-! ### PATCH (R130) -/

section
variable {s : State} {port : BitVec 4} {p : PortId}

theorem exec_patch (hp : port.toNat = p.val) (hs : s.Ready) : exec (.patch port) s = .next (s.hostPatch p) :=
  congrArg Host.Outcome.next (State.portCommand_ready hs hp 10 _)

theorem exec_patch_badPort (hp : 8 ≤ port.toNat) (hs : s.Ready) :
    exec (.patch port) s = .next (s.refuse 10 .badPort 0) :=
  congrArg Host.Outcome.next (State.portCommand_badPort hs hp 10 _)

theorem exec_patch_busy (hs : s.Live) (hb : s.win.initBusy = true ∨ s.win.resetBusy = true) :
    exec (.patch port) s = .next (s.refuse 10 .busy 0) :=
  congrArg Host.Outcome.next (State.command_busy hs hb 10 _)

theorem State.hostPatch_misaligned (h : s.map.patchAddr.toNat % 4 ≠ 0) :
    s.hostPatch p = s.refuse 10 .misaligned 0 := if_pos h

theorem State.hostPatch_busy (ha : s.map.patchAddr.toNat % 4 = 0) (he : s.map.engine ≠ none) :
    s.hostPatch p = s.refuse 10 .busy 0 :=
  (if_neg (not_not_intro ha)).trans (if_pos (Option.isSome_iff_ne_none.mpr he))

theorem State.hostPatch_taken (ha : s.map.patchAddr.toNat % 4 = 0) (he : s.map.engine = none) :
    s.hostPatch p = (s.takeClaim .host s.map.patchAddr p).accept 10 0 :=
  (if_neg (not_not_intro ha)).trans (if_neg (by simp [he]))

end

/-- Settles O25: the gates of the window first, then the checks of `State.hostPatch` in their order. -/
theorem patchTaken : Obligations.PatchTaken := by
  unfold Obligations.PatchTaken
  intro port s hlive result refused
  refine ⟨exec_patch_busy hlive, fun hs =>
    ⟨fun hp => exec_patch_badPort hp hs, fun hp h => ?misaligned, fun hp h he => ?busy, fun p hp h he => ?taken⟩⟩
  case misaligned => exact (exec_patch (p := ⟨port.toNat, hp⟩) rfl hs).trans (congrArg _ (State.hostPatch_misaligned h))
  case busy => exact (exec_patch (p := ⟨port.toNat, hp⟩) rfl hs).trans (congrArg _ (State.hostPatch_busy h he))
  case taken => rw [exec_patch hp hs, State.hostPatch_taken h he, State.takeClaim_eq]; rfl

/-! ### FENCE (R138) -/

theorem allPorts_eq_finRange : allPorts = List.finRange 8 := by decide

/-- The members of a set, in ascending order. -/
theorem PortSet.count_eq (S : PortSet) : S.count = ((List.finRange 8).filter S.mem).length := by
  rw [PortSet.count, allPorts_eq_finRange]

theorem PortSet.isEmpty_iff_filter (S : PortSet) : S.isEmpty = true ↔ (List.finRange 8).filter S.mem = [] := by
  simp [PortSet.isEmpty_iff]

theorem PortSet.mem_ofFn (f : PortId → Bool) : PortSet.mem (Vector.ofFn f) = f := by
  funext p
  simp [PortSet.mem]

section
variable {s : State}

theorem State.latchedPorts_mem (s : State) : s.latchedPorts.mem = fun p => (s.port p).latch.isSome :=
  PortSet.mem_ofFn _

theorem exec_fence (hs : s.Ready) : exec .fence s = .next s.fence :=
  congrArg Host.Outcome.next (State.command_ready hs 11 _)

/-- FENCE is turned away by the window, or by a fence that is pending. -/
theorem exec_fence_busy (hs : s.Live)
    (h : s.win.initBusy = true ∨ s.win.resetBusy = true ∨ s.map.fencePending = true) :
    exec .fence s = .next (s.refuse 11 .busy 0) := by
  by_cases hb : s.win.initBusy = true ∨ s.win.resetBusy = true
  · exact congrArg Host.Outcome.next (State.command_busy hs hb 11 _)
  · obtain ⟨hi, hr⟩ := not_or.mp hb
    have hpending : s.map.fencePending = true := (h.resolve_left hi).resolve_left hr
    rw [exec_fence ⟨hs, eq_false_of_ne_true hi, eq_false_of_ne_true hr⟩]
    exact congrArg Host.Outcome.next (if_pos hpending)

/-- A fence taken is pending, or complete if no latch is valid. -/
theorem State.fence_taken (h : s.map.fencePending = false) :
    s.fence = { s with map := { s.map with
      fenceSet := s.latchedPorts, fencePending := !s.latchedPorts.isEmpty
      fenceEnd := s.map.fenceEnd || s.latchedPorts.isEmpty } }.accept 11 s.latchedPorts.count := by
  rw [State.fence, if_neg (ne_true_of_eq_false h)]
  cases hempty : s.latchedPorts.isEmpty <;> simp [h, hempty]

end

/-! ### Leaving the fence set (R139) -/

section
variable {m : MapUnit} {p : PortId}

theorem MapUnit.leaveFence_outside (h : m.fenceSet.mem p = false) : m.leaveFence p = m :=
  if_neg (ne_true_of_eq_false h)

/-- A port that leaves others behind leaves the fence as it was. -/
theorem MapUnit.leaveFence_remaining (h : m.fenceSet.mem p = true) {q : PortId} (hq : q ≠ p)
    (hmem : m.fenceSet.mem q = true) : m.leaveFence p = { m with fenceSet := m.fenceSet.erase p } := by
  have hrest : (m.fenceSet.erase p).isEmpty = false := by
    refine eq_false_of_ne_true fun hempty => ?_
    have := (PortSet.isEmpty_iff _).mp hempty q
    simp [PortSet.mem_erase, hmem, hq] at this
  simp [MapUnit.leaveFence, h, hrest]

/-- The last port that leaves a pending fence completes it. -/
theorem MapUnit.leaveFence_last (h : m.fenceSet.mem p = true) (hpending : m.fencePending = true)
    (hlast : ∀ q, q ≠ p → m.fenceSet.mem q = false) :
    m.leaveFence p = { m with fenceSet := m.fenceSet.erase p, fencePending := false, fenceEnd := true } := by
  have hrest : (m.fenceSet.erase p).isEmpty = true := by
    refine (PortSet.isEmpty_iff _).mpr fun q => ?_
    by_cases hq : q = p
    · simp [PortSet.mem_erase, hq]
    · simp [PortSet.mem_erase, hlast q hq]
  simp [MapUnit.leaveFence, h, hpending, hrest]

end

/-- Settles O26: the command's refusals, its set, and the three ways to leave the set. -/
theorem fenceTaken : Obligations.FenceTaken := by
  unfold Obligations.FenceTaken
  refine ⟨fun s => exec_fence_busy, fun s hs hpending => ?taken, fun m p =>
    ⟨MapUnit.leaveFence_outside, fun h q => MapUnit.leaveFence_remaining h, MapUnit.leaveFence_last⟩⟩
  case taken =>
    intro holders
    have hholders : (List.finRange 8).filter s.latchedPorts.mem = holders := by rw [State.latchedPorts_mem]
    have hempty : s.latchedPorts.isEmpty = decide (holders = []) := by
      rw [Bool.eq_iff_iff, decide_eq_true_iff, PortSet.isEmpty_iff_filter, hholders]
    refine ⟨s.latchedPorts, congrFun s.latchedPorts_mem, ?_⟩
    rw [exec_fence hs, State.fence_taken hpending, hempty, PortSet.count_eq, hholders, ← decide_not]
    rfl

end Sys2Proof.Machine
end

section
/-! The patch fetch (R133, R134): the header, index and entry words of a block, and the word that each lets it read next. -/

namespace Sys2Proof.Machine

/-! ### The checks of a word (Table 8-3) -/

section
variable {f : Flight} {w : Word}

/-- COUNT and FORMAT of a header word (Table 11-8). -/
theorem header_fields (w : Word) : field w 0 8 = w.toNat % 256 ∧ field w 8 2 = w.toNat / 256 % 4 :=
  ⟨field_low w 8, field_shifted w 8 2⟩

theorem Flight.headerFault_badCount (h : w.toNat % 256 = 0 ∨ 32 < w.toNat % 256 ∨
    4294967296 < f.address.toNat + 4 * (1 + 2 * (w.toNat % 256))) : f.headerFault w = some .badCount := by
  rw [Flight.headerFault, (header_fields w).1]
  exact if_pos h

/-- Past the check of COUNT, FORMAT decides. -/
theorem Flight.headerFault_of_count (h1 : 1 ≤ w.toNat % 256) (h32 : w.toNat % 256 ≤ 32)
    (hend : f.address.toNat + 4 * (1 + 2 * (w.toNat % 256)) ≤ 4294967296) :
    f.headerFault w = if 1 < w.toNat / 256 % 4 then some .badFormat else none := by
  rw [Flight.headerFault, (header_fields w).1, (header_fields w).2]
  exact if_neg (by omega)

theorem Flight.resolve_absolute (h : f.relative = false) :
    f.resolve w = if w.toNat < 1024 then some w.toNat else none := if_neg (ne_true_of_eq_false h)

theorem Flight.resolve_relative (h : f.relative = true) : f.resolve w =
    if w.toNat < f.span ∧ f.base + w.toNat < 1024 then some (f.base + w.toNat) else none := if_pos h

/-- The pairs of a block once `w`, the entry word of index `i`, has been read. -/
def Flight.stagedWith (f : Flight) (i : Nat) (w : Word) : List (Nat × MapContents) :=
  f.staging ++ [(i, mapContentsOfWord w)]

theorem Flight.stagedWith_length (f : Flight) (i : Nat) (w : Word) :
    (f.stagedWith i w).length = f.staging.length + 1 := List.length_append

end

/-! ### The words of a block -/

section
variable {s : State} {f : Flight} {a : Access} {w : Word} {i : Nat} {cause : PatchCause}

/-- The end of a read reaches the patch in flight while the patch fetch holds the data path. -/
theorem exec_patchReadEnd (hs : s.Live) (hh : s.arbiter.holder = .patchFetch) (ha : s.access = some a)
    (outcome : AccessOutcome) : exec (.patchReadEnd outcome) s = .next (s.patchReadEnd outcome) :=
  congrArg Host.Outcome.next ((State.unlessReset_live hs _).trans (if_pos ⟨hh, by simp [ha]⟩))

theorem State.patchReadEnd_error (hf : s.map.engine = some f) (hfetch : f.fetching = true) :
    s.patchReadEnd .error = s.patchRejected { f with wordsRead := f.wordsRead + 1 } .busError := by
  simp only [State.patchReadEnd, hf, hfetch, if_true]

theorem State.patchReadEnd_data (hf : s.map.engine = some f) (hfetch : f.fetching = true) (w : Word) :
    s.patchReadEnd (.data w) = s.patchWord f w := by
  simp only [State.patchReadEnd, hf, hfetch, if_true]

theorem State.patchWord_header (h0 : f.wordsRead = 0) (hw : f.headerFault w = none) :
    s.patchWord f w = s.fetchNext { f with
      wordsRead := f.wordsRead + 1, count := w.toNat % 256, relative := w.toNat / 256 % 4 == 1 } := by
  simp only [State.patchWord, h0, if_true, hw, (header_fields w).1, (header_fields w).2]

theorem State.patchWord_badHeader (h0 : f.wordsRead = 0) (hw : f.headerFault w = some cause) :
    s.patchWord f w = s.patchRejected { f with wordsRead := f.wordsRead + 1 } cause := by
  simp only [State.patchWord, h0, if_true, hw]

theorem State.patchWord_index (h0 : f.wordsRead ≠ 0) (hi : f.index = none) (hw : f.resolve w = some i) :
    s.patchWord f w = s.fetchNext { f with wordsRead := f.wordsRead + 1, index := some i } := by
  simp only [State.patchWord, h0, if_false, hi, hw]

theorem State.patchWord_badIndex (h0 : f.wordsRead ≠ 0) (hi : f.index = none) (hw : f.resolve w = none) :
    s.patchWord f w = s.patchRejected { f with wordsRead := f.wordsRead + 1 } .badIndex := by
  simp only [State.patchWord, h0, if_false, hi, hw]

/-- An entry word closes its pair; the last of COUNT pairs commits the block (R134, R136). -/
theorem State.patchWord_entry (h0 : f.wordsRead ≠ 0) (hi : f.index = some i) :
    s.patchWord f w =
      let f' : Flight := { f with wordsRead := f.wordsRead + 1, index := none, staging := f.stagedWith i w }
      if f.count ≤ f.staging.length + 1 then s.patchApplied f' else s.fetchNext f' := by
  rw [← f.stagedWith_length i w]
  simp only [State.patchWord, h0, if_false, hi]
  rfl

end

/-- Settles O51, word by word. -/
theorem patchFetchReads : Obligations.PatchFetchReads := by
  unfold Obligations.PatchFetchReads
  intro s f w a hs hh ha hf hfetch goesOn
  have goesOn_of {f' : Flight} (h : s.patchWord f w = s.fetchNext { f' with wordsRead := f.wordsRead + 1 })
      (haddress : f'.address = f.address) : goesOn f' := by
    refine (exec_patchReadEnd hs hh ha _).trans (congrArg _ ?_)
    rw [State.patchReadEnd_data hf hfetch, h, State.fetchNext, haddress]
  refine ⟨fun h0 h1 h32 hend hformat => ?header, fun h0 hi hr hw => ?absolute, fun h0 hi hr hspan hw => ?relative,
    fun i h0 hi hcount => ?entry⟩
  case header =>
    have hnone : f.headerFault w = none := (Flight.headerFault_of_count h1 h32 hend).trans (if_neg (by omega))
    exact goesOn_of (State.patchWord_header h0 hnone) rfl
  case absolute => exact goesOn_of (State.patchWord_index h0 hi ((Flight.resolve_absolute hr).trans (if_pos hw))) rfl
  case relative =>
    exact goesOn_of (State.patchWord_index h0 hi ((Flight.resolve_relative hr).trans (if_pos ⟨hspan, hw⟩))) rfl
  case entry =>
    rw [← mapContentsOfWord_eq]
    exact goesOn_of ((State.patchWord_entry h0 hi).trans (if_neg (by omega))) rfl

end Sys2Proof.Machine
end

section
/-! The end of a patch (R132, R135, R136): the claim that the engine takes next, the commit, and the retirement of the PATCH
record that the patch was claimed for (R59 to R62). -/

namespace Sys2Proof.Machine

/-! ### The next claim (R132) -/

theorem PortSet.lowest_eq_none {S : PortSet} (h : S.isEmpty = true) : S.lowest = none :=
  List.find?_eq_none.mpr fun q _ => by simp [(PortSet.isEmpty_iff S).mp h q]

theorem PortSet.lowest_eq_some {S : PortSet} {q : PortId} (hq : S.mem q = true) (hlt : ∀ q', q' < q → S.mem q' = false) :
    S.lowest = some q := by
  refine find_rotation (pointer := 7) hq fun q' hq' => ?_
  have hle : q.val ≤ q'.val := not_lt.mp fun h => by simp [hlt q' h] at hq'
  show (q.val + 7 - 7) % 8 ≤ (q'.val + 7 - 7) % 8
  omega

/-- The engine of a patch that has ended takes the next claim. -/
theorem State.takeNextClaim_eq {s : State} {engine : Option Flight} {waiting : PortSet} (h : s.NextClaim engine waiting)
    (hfree : s.map.engine = none) :
    s.takeNextClaim = { s with map := { s.map with engine := engine, waiting := waiting } } := by
  rcases h with ⟨hempty, rfl, rfl⟩ | ⟨q, a, hq, hlt, ha, rfl, rfl⟩
  · rw [State.takeNextClaim, PortSet.lowest_eq_none hempty, ← hfree]
  · simp only [State.takeNextClaim, PortSet.lowest_eq_some hq hlt, ha]
    rfl

/-! ### The end of a PATCH record (R57, R59 to R62) -/

section
variable {s : State} {p : PortId} {r : Record} {rest : List Slot} {b : Word}

/-- The end of a control record has no message effects (R57). -/
theorem Port.endEffects_control (hw : r.work.dir = none) (st : Status) (P : Port) : P.endEffects r st = P :=
  if_neg (by simp [Work.isData, hw])

/-- The report of a PATCH record (Table 3-4). -/
theorem Port.recordReport_patch (hw : r.work = .patch b) (P : Port) (p : PortId) (st : Status) (d : Detail) :
    P.recordReport p r st d = .record p st r.tag 0 false 0 r.urgent d := by
  simp [Port.recordReport, hw, Work.isData, Work.dir]

/-- A PATCH record whose patch is applied retires PATCHED. -/
theorem State.recordEnd_patched (hq : (s.port p).queue = ⟨r, .current⟩ :: rest) (hw : r.work = .patch b)
    (hrun : (s.port p).state = .running) :
    { s with map := s.map.leaveFence p }.Retires p (s.port p).recordGone r
      (.record p .patched r.tag 0 false 0 r.urgent .absent) (.next ((s.recordEnd p .patched .absent).serve p)) := by
  have hdir : r.work.dir = none := by rw [hw]; rfl
  refine State.recordEnd_retires hq (by simp [hw]) rfl (.inr (by simp [hrun])) ?_ ?_ ?_
    (Port.recordReport_patch hw _ p _ _) <;> rw [Port.endEffects_control hdir]
  · simp [Port.recordGone, Port.endBurst, Port.setLatch, hq]
  all_goals rfl

/-- The part with the current PATCH record of a port ended, its retirement still to come. -/
def State.patchGone (s : State) (p : PortId) : State :=
  { s.setPort p ((s.port p).setLatch none).endBurst with map := s.map.leaveFence p }

theorem State.recordEnd_patchRejected (hq : (s.port p).queue = ⟨r, .current⟩ :: rest) (hw : r.work = .patch b)
    (cause : PatchCause) :
    s.recordEnd p .patchRejected (.patch cause) =
      (s.patchGone p).retire p .patchRejected true
        (.record p .patchRejected r.tag 0 false 0 r.urgent (.patch cause)) := by
  have hdir : r.work.dir = none := by rw [hw]; rfl
  have hneeds : r.needsReport .patchRejected = true := by simp [Record.needsReport, Status.isError]
  have hgone : ((s.dropLatch p).modPort p fun P => P.endBurst.endEffects r .patchRejected) = s.patchGone p := by
    simp only [Port.endEffects_control hdir, State.modPort_eq, State.dropLatch_port_same]
    exact State.setPort_setPort { s with map := s.map.leaveFence p } p _ _
  rw [State.recordEnd_eq (r := r) (by simp [Port.current, hq]), Port.recordReport_patch hw, hneeds, hgone]

/-- A change of a port after its context, the map unit and the report queue have been replaced. -/
theorem State.modPort_replaced (s : State) (p : PortId) (P : Port) (m : MapUnit) (q : ReportQueue) (g : Port → Port) :
    ({ s.setPort p P with map := m, reports := q } : State).modPort p g =
      { s.setPort p (g P) with map := m, reports := q } :=
  State.modPort_setPort { s with map := m, reports := q } p P g

/-- A port that is not IDLE after such a replacement only begins what can begin. -/
theorem State.serve_replaced (s : State) (p : PortId) {P : Port} (h : P.state ≠ .idle) (m : MapUnit) (q : ReportQueue) :
    ({ s.setPort p P with map := m, reports := q } : State).serve p =
      { s.setPort p P.settle with map := m, reports := q } := by
  rw [State.serve_of_not_idle, State.modPort_replaced]
  rwa [show ({ s.setPort p P with map := m, reports := q } : State).port p = P from s.port_setPort_same p P]

/-- A port that halts without a current record: only resync discard can begin (R61, R66). -/
def Port.haltedGone (Q : Port) : Port :=
  { Q with
    state := .halted, haltEvent := true, pausePending := false
    dirLine := if Q.resync && Q.attached then .inbound else Q.dirLine }

/-- The port of a rejected PATCH record whose retirement completes. -/
theorem Port.settle_patchRejected_halted {P : Port} (hq : P.queue = ⟨r, .current⟩ :: rest)
    (hrest : ∀ slot ∈ rest, slot.stage = .queued) :
    ((P.setLatch none).endBurst.completeRetirement .patchRejected).settle = P.recordGone.haltedGone := by
  rw [Port.completeRetirement_error rfl, Port.settle_of_idle_or_halted (.inr rfl)]
  · rfl
  · refine Port.currentData_of_queued fun slot hslot => ?_
    have hmem : slot ∈ rest := by simpa [Port.setLatch, Port.endBurst, hq] using List.mem_of_mem_head? hslot
    simp [hrest slot hmem]

/-- The port of a rejected PATCH record whose retirement blocks. -/
theorem Port.settle_patchRejected_blocked {P : Port} (hq : P.queue = ⟨r, .current⟩ :: rest) (rep : Report) :
    ((P.setLatch none).endBurst.block .patchRejected rep).settle =
      { P.recordGone with queue := ⟨r, .ended⟩ :: rest, state := .blocked, heldReport := some rep } := by
  have hblock : (P.setLatch none).endBurst.block .patchRejected rep =
      { P.recordGone with queue := ⟨r, .ended⟩ :: rest, state := .blocked, heldReport := some rep } := by
    simp [Port.block, Port.setLatch, Port.endBurst, Port.recordGone, hq]
  rw [hblock, Port.settle_of_none (Port.currentData_of_queued (by simp)) (by simp [Port.discards])]

/-- A rejected PATCH record whose report finds a free entry leaves its port HALTED. -/
theorem State.serve_patchRejected_posted (hq : (s.port p).queue = ⟨r, .current⟩ :: rest)
    (hrest : ∀ slot ∈ rest, slot.stage = .queued) (hw : r.work = .patch b)
    (hlen : s.reports.entries.length < 32) (cause : PatchCause) :
    (s.recordEnd p .patchRejected (.patch cause)).serve p =
      { s.setPort p (s.port p).recordGone.haltedGone with
        map := s.map.leaveFence p
        reports := s.reports.post (.record p .patchRejected r.tag 0 false 0 r.urgent (.patch cause)) } := by
  rw [State.recordEnd_patchRejected hq hw, State.retire_posted (s := s.patchGone p) hlen, State.patchGone,
    State.modPort_replaced, State.serve_replaced, Port.settle_patchRejected_halted hq hrest]
  · rfl
  · simp [Port.completeRetirement, Status.isError]

/-- A rejected PATCH record whose report finds no free entry leaves its port BLOCKED, the slot ENDED. -/
theorem State.serve_patchRejected_blocks (hq : (s.port p).queue = ⟨r, .current⟩ :: rest) (hw : r.work = .patch b)
    (hlen : 32 ≤ s.reports.entries.length) (cause : PatchCause) :
    let rep : Report := .record p .patchRejected r.tag 0 false 0 r.urgent (.patch cause)
    (s.recordEnd p .patchRejected (.patch cause)).serve p =
      { s.setPort p { (s.port p).recordGone with
          queue := ⟨r, .ended⟩ :: rest, state := .blocked, heldReport := some rep } with
        map := s.map.leaveFence p
        reports := { s.reports with blocked := s.reports.blocked ++ [p] } } := by
  rw [State.recordEnd_patchRejected hq hw, State.retire_blocks (s := s.patchGone p) hlen, State.patchGone,
    State.modPort_replaced, State.serve_replaced, Port.settle_patchRejected_blocked hq]
  · rfl
  · simp [Port.block]

end

/-! ### The end of the patch (R136) -/

section
variable {s : State} {f : Flight} {engine : Option Flight} {waiting : PortSet} {p : PortId} {r : Record}
  {rest : List Slot} {b : Word} {st : Status} {d : Detail}

/-- The part after the end of a patch, the PATCH record that it was claimed for still current: the data path given back, the
outcome recorded, the engine as the next claim leaves it. -/
def State.patchOver (s : State) (engine : Option Flight) (waiting : PortSet) (last : PatchOutcome) : State :=
  { s with
    arbiter := { s.arbiter with holder := .none }, access := none, win := { s.win with resetBusy := false }
    map := { s.map with engine := engine, waiting := waiting, lastOutcome := last, patchEnd := true } }

/-- The next claim is taken before any record retires (log 30). -/
theorem State.takeNextClaim_ended (h : s.NextClaim engine waiting) (last : PatchOutcome) :
    ({ s.release with map := { s.map with engine := none, lastOutcome := last, patchEnd := true } } :
      State).takeNextClaim = s.patchOver engine waiting last :=
  State.takeNextClaim_eq (engine := engine) (waiting := waiting) h rfl

/-- A host patch, and one whose record was dropped, retires no record. -/
theorem State.patchEnded_noRecord (h : s.NextClaim engine waiting) (hno : f.origin = .host ∨ f.owned = false)
    (last : PatchOutcome) : s.patchEnded f last st d = s.patchOver engine waiting last := by
  simp only [State.patchEnded, State.release_map, State.takeNextClaim_ended h]
  rcases hno with hhost | howned
  · simp only [hhost]
  · cases f.origin <;> simp [howned]

/-- A patch whose record is held retires it. -/
theorem State.patchEnded_record (h : s.NextClaim engine waiting) (ho : f.origin = .port p) (howned : f.owned = true)
    (hq : (s.port p).queue = ⟨r, .current⟩ :: rest) (hw : r.work = .patch b) (last : PatchOutcome) :
    s.patchEnded f last st d = ((s.patchOver engine waiting last).recordEnd p st d).serve p := by
  have hcur : ((s.patchOver engine waiting last).port p).currentPatch = some b := Port.currentPatch_of_queue hq hw
  simp only [State.patchEnded, State.release_map, State.takeNextClaim_ended h, ho, howned, hcur, Option.isSome_some,
    Bool.and_true, if_true]

/-- The part with the staged pairs of a block written (R136). -/
def State.committed (s : State) (pairs : List (Nat × MapContents)) : State :=
  { s with map := { s.map with entries := (s.map.commit pairs).entries } }

theorem State.patchApplied_eq (s : State) (f : Flight) :
    s.patchApplied f = (s.committed f.staging).patchEnded f (.applied f.count f.origin) .patched .absent := by
  rw [State.patchApplied, MapUnit.commit_eq]
  rfl

end

/-- Settles O52: the words that end a patch, each with what its end leaves. -/
theorem patchEnds : Obligations.PatchEnds := by
  unfold Obligations.PatchEnds
  intro s f a engine waiting hs hh ha hf hfetch hwf hnext ended noRecord claimant applies rejects
  have hdata (w : Word) : exec (.patchReadEnd (.data w)) s = .next (s.patchWord f w) :=
    (exec_patchReadEnd hs hh ha _).trans (congrArg _ (State.patchReadEnd_data hf hfetch w))
  have rejects_of {outcome : AccessOutcome} {cause : PatchCause}
      (h : exec (.patchReadEnd outcome) s = .next (s.patchRejected { f with wordsRead := f.wordsRead + 1 } cause)) :
      rejects outcome cause := by
    refine ⟨fun hno => h.trans (congrArg _ (State.patchEnded_noRecord hnext hno _)), fun p r rest hc => ?_⟩
    obtain ⟨ho, howned, -, hq, ⟨b, hw⟩, hrest⟩ := hc
    have hrec := h.trans (congrArg _ (State.patchEnded_record hnext ho howned hq hw _))
    exact ⟨fun hlen => hrec.trans (congrArg _ (State.serve_patchRejected_posted
      (s := s.patchOver engine waiting _) hq hrest hw hlen cause)),
      fun hlen => hrec.trans (congrArg _ (State.serve_patchRejected_blocks
        (s := s.patchOver engine waiting _) hq hw hlen cause))⟩
  have rejects_word {w : Word} {cause : PatchCause}
      (h : s.patchWord f w = s.patchRejected { f with wordsRead := f.wordsRead + 1 } cause) : rejects (.data w) cause :=
    rejects_of ((hdata w).trans (congrArg _ h))
  refine ⟨rejects_of ((exec_patchReadEnd hs hh ha _).trans (congrArg _ (State.patchReadEnd_error hf hfetch))),
    fun w h0 => ⟨fun hcount => ?badCount, fun h1 h32 hend hformat => ?badFormat⟩,
    fun w h0 hi => ⟨fun hr hw => ?absolute, fun hr hw => ?relative⟩, fun w i h0 hi hcount => ?applied⟩
  case badCount => exact rejects_word (State.patchWord_badHeader h0 (Flight.headerFault_badCount hcount))
  case badFormat =>
    have hfault : f.headerFault w = some .badFormat :=
      (Flight.headerFault_of_count h1 h32 hend).trans (if_pos (by omega))
    exact rejects_word (State.patchWord_badHeader h0 hfault)
  case absolute =>
    have hnone : f.resolve w = none := (Flight.resolve_absolute hr).trans (if_neg (by omega))
    exact rejects_word (State.patchWord_badIndex h0 hi hnone)
  case relative =>
    have hnone : f.resolve w = none := (Flight.resolve_relative hr).trans (if_neg (by omega))
    exact rejects_word (State.patchWord_badIndex h0 hi hnone)
  case applied =>
    rw [← mapContentsOfWord_eq]
    intro pairs
    have hdone := (hdata w).trans (congrArg _
      ((State.patchWord_entry h0 hi).trans ((if_pos hcount).trans (s.patchApplied_eq _))))
    refine ⟨(s.map.commit pairs).entries, ⟨fun hno => ?dropped, fun p r rest hc => ?retires⟩,
      fun j => MapUnit.entry_commit_ne pairs s.map j, fun before after j c hpairs hafter => ?committed⟩
    case dropped => exact hdone.trans (congrArg _ (State.patchEnded_noRecord (s := s.committed pairs) hnext hno _))
    case retires =>
      obtain ⟨ho, howned, hrun, hq, ⟨b, hw⟩, -⟩ := hc
      have hrec := hdone.trans (congrArg _ (State.patchEnded_record (s := s.committed pairs) hnext ho howned hq hw _))
      rw [hrec]
      exact State.recordEnd_patched (s := (s.committed pairs).patchOver engine waiting _) hq hw hrun
    case committed => exact hpairs ▸ MapUnit.entry_commit_last hwf before after j c hafter

end Sys2Proof.Machine
end

section
/-! The report queue (chapter 9): what a posting announces, what a POP removes and admits, and the queue's law under every
step. -/

namespace Sys2Proof.Machine

/-! ### The law of the report queue (law 5) -/

section
variable {s t : State}

/-- A retirement posts its report into a free entry, or leaves the entries as they are (R61, R62). -/
theorem State.retire_keeps_reportLaw (h : s.reports.Law) (p : PortId) (st : Status) (needed : Bool) (rep : Report) :
    (s.retire p st needed rep).reports.Law := by
  unfold State.retire
  split_ifs with _ hfull
  · exact h
  · exact h
  · exact ReportQueue.law_post rep h (by simpa [ReportQueue.full] using hfull)

/-- The entry that a POP takes makes room for the report that it admits (R145, R146). -/
theorem ReportQueue.law_admit {q : ReportQueue} (h : q.Law) (others : List PortId) (rep : Report) :
    (({ q.removeHead with blocked := others } : ReportQueue).post rep).Law := by
  have hremoved : ({ q.removeHead with blocked := others } : ReportQueue).Law := ReportQueue.law_removeHead h
  refine ReportQueue.law_post rep hremoved ?_
  obtain ⟨hlen, -⟩ := h
  show q.removeHead.entries.length < 32
  rw [ReportQueue.removeHead_entries, List.length_tail]
  omega

/-- Every elementary change keeps the law of the report queue. -/
theorem State.Change.keeps_reportLaw (h : s.Change t) (hs : s.reports.Law) : t.reports.Law := by
  cases h with
  | quiet _ hroom =>
    obtain ⟨-, -, hlaw⟩ := hroom
    exact hlaw hs
  | retires _ st needed rep => exact State.retire_keeps_reportLaw hs _ st needed rep
  | posts rep hfree => exact ReportQueue.law_post rep hs (by simpa [ReportQueue.full] using hfree)
  | restarts _ hreports => rw [hreports]; decide
  | pops _ => exact ReportQueue.law_removeHead hs
  | @admits p rest rep _ _ => exact ReportQueue.law_admit hs rest rep
  | strays _ _ => exact ReportQueue.law_removeHead hs
  | turns | takesUp | joins | leaves | flushes | resets => exact hs

end

/-- Settles O55: the report queue's law is kept by every elementary change. -/
theorem reportQueueLawKept : Obligations.ReportQueueLawKept := by
  unfold Obligations.ReportQueueLawKept
  exact fun s t hs hstep => (step_becomes hstep).keeps State.Change.keeps_reportLaw hs

/-! ### Postings (R142, R149, R150) -/

theorem Status.isError_iff (st : Status) :
    st.isError = true ↔ st ∈ [.underrun, .overrun, .repeatLimit, .periphFault, .stalled, .detached, .mapFault, .busError,
      .patchRejected] := by
  cases st <;> decide

/-- The reports that announce at once: those of an URGENT record, and those of an error status (R149). -/
theorem Report.raisesAtOnce_iff (r : Report) :
    r.raisesAtOnce = true ↔ ∃ port st tag moved messageEnd repeats urgent d,
      r = .record port st tag moved messageEnd repeats urgent d ∧ (urgent = true ∨ st.isError = true) := by
  constructor
  · intro h
    cases r with
    | record port st tag moved messageEnd repeats urgent d =>
      exact ⟨port, st, tag, moved, messageEnd, repeats, urgent, d, rfl, by simpa [Report.raisesAtOnce] using h⟩
    | flushed port count => simp [Report.raisesAtOnce] at h
  · rintro ⟨port, st, tag, moved, messageEnd, repeats, urgent, d, rfl, h⟩
    simpa [Report.raisesAtOnce] using h

section
variable {q : ReportQueue} {r : Report}

/-- A posting that announces (R149). -/
theorem ReportQueue.post_announces
    (h : q.threshold ≤ q.unannounced + 1 ∨ q.holdoff = 0 ∨ r.raisesAtOnce = true) :
    q.post r = { q with
      entries := (q.entries.map fun e => { e with announced := true }) ++ [⟨r, true⟩]
      reportDue := true, holdoffTimer := none } := by
  have hraise : q.threshold ≤ (q.append r).unannounced ∨ r.raisesAtOnce = true ∨ q.holdoff = 0 := by
    rw [ReportQueue.append_unannounced]
    exact h.imp_right Or.symm
  rw [ReportQueue.post, if_pos hraise]
  simp [ReportQueue.raise, ReportQueue.append]

/-- A posting that waits for its announcement (R150). -/
theorem ReportQueue.post_waits
    (h : ¬(q.threshold ≤ q.unannounced + 1 ∨ q.holdoff = 0 ∨ r.raisesAtOnce = true)) :
    q.post r = { q with
      entries := q.entries ++ [⟨r, false⟩]
      holdoffTimer := if q.unannounced = 0 then some 0 else q.holdoffTimer } := by
  have hwait : ¬(q.threshold ≤ (q.append r).unannounced ∨ r.raisesAtOnce = true ∨ q.holdoff = 0) := by
    rw [ReportQueue.append_unannounced]
    exact fun hraise => h (hraise.imp_right Or.symm)
  rw [ReportQueue.post, if_neg hwait]
  split_ifs <;> rfl

end

/-- Settles O27: a posting announces or waits. -/
theorem postingAnnounces : Obligations.PostingAnnounces := by
  unfold Obligations.PostingAnnounces
  intro q r waiting atOnce
  have hatOnce : atOnce ↔ q.threshold ≤ q.unannounced + 1 ∨ q.holdoff = 0 ∨ r.raisesAtOnce = true := by
    rw [Report.raisesAtOnce_iff]
    simp only [Status.isError_iff]
    rfl
  rw [hatOnce]
  exact ⟨ReportQueue.post_announces, ReportQueue.post_waits⟩

/-! ### POP (R145, R146) -/

section
variable {s : State} {e : ReportEntry} {rest : List ReportEntry} {p : PortId} {others : List PortId} {rep : Report}

/-- The report queue `q` after its head `e` was taken, `rest` left: the holdoff timer stops with the last unannounced entry. -/
def ReportQueue.withoutHead (q : ReportQueue) (e : ReportEntry) (rest : List ReportEntry) : ReportQueue :=
  { q with
    entries := rest
    holdoffTimer := if !e.announced && rest.all fun x => x.announced then none else q.holdoffTimer }

/-- No entry is unannounced exactly if all are announced. -/
theorem ReportQueue.unannounced_beq_zero (q : ReportQueue) :
    (q.unannounced == 0) = q.entries.all fun x => x.announced := by
  rw [Bool.eq_iff_iff]
  simp [ReportQueue.unannounced]

theorem ReportQueue.removeHead_cons {q : ReportQueue} (h : q.entries = e :: rest) :
    q.removeHead = q.withoutHead e rest := by
  simp only [ReportQueue.removeHead, h, ReportQueue.unannounced_beq_zero, ReportQueue.withoutHead]
  split_ifs <;> rfl

theorem exec_pop (hs : s.Ready) : exec .pop s = .next s.pop :=
  congrArg Host.Outcome.next (State.command_ready hs 12 State.pop)

theorem State.pop_empty (h : s.reports.entries = []) : s.pop = s.refuse 12 .reportEmpty 0 := by
  simp only [State.pop, h]

theorem State.pop_unblocked (h : s.reports.entries = e :: rest) (hb : s.reports.blocked = []) :
    s.pop = { s with reports := s.reports.withoutHead e rest }.accept 12 rest.length := by
  simp only [State.pop, h, ReportQueue.removeHead_cons h, State.admitFirst, ReportQueue.withoutHead, hb]

/-- The report queue after the head `e` was taken and the report of the first port on the blocked list posted. -/
def ReportQueue.admitting (q : ReportQueue) (e : ReportEntry) (rest : List ReportEntry) (others : List PortId)
    (rep : Report) : ReportQueue :=
  ({ q.withoutHead e rest with blocked := others } : ReportQueue).post rep

theorem ReportQueue.admitting_length (q : ReportQueue) (e : ReportEntry) (rest : List ReportEntry)
    (others : List PortId) (rep : Report) : (q.admitting e rest others rep).entries.length = rest.length + 1 :=
  ReportQueue.post_length _ _

/-- A POP that admits the front port of the blocked list, whose serve then leaves it the context `P` and posts nothing. -/
theorem State.pop_admits (h : s.reports.entries = e :: rest) (hb : s.reports.blocked = p :: others)
    (hheld : (s.port p).heldReport = some rep) {P : Port}
    (hserve : ({ s.setPort p ((s.port p).completeRetirement rep.status) with
        reports := s.reports.admitting e rest others rep } : State).serve p =
      { s.setPort p P with reports := s.reports.admitting e rest others rep }) :
    s.pop = { s.setPort p P with reports := s.reports.admitting e rest others rep }.accept 12 (rest.length + 1) := by
  have hadmit : ({ s with reports := s.reports.removeHead } : State).admitFirst =
      { s.setPort p P with reports := s.reports.admitting e rest others rep } := by
    have hblocked : (s.reports.withoutHead e rest).blocked = p :: others := hb
    have hport : ({ s with reports := s.reports.withoutHead e rest } : State).port p = s.port p := rfl
    simp only [State.admitFirst, ReportQueue.removeHead_cons h, hblocked, hport, hheld]
    exact hserve
  simp only [State.pop, h, hadmit, ReportQueue.admitting_length]

/-! The context of the admitted port, its held record gone, and what then begins there. -/

/-- A port whose held report was admitted (R61): the ENDED record has left its queue. -/
def Port.admitted (P : Port) (after : List Slot) : Port :=
  { P with queue := after, heldReport := none, pausePending := false }

variable {P : Port} {slot : Slot} {after : List Slot} {st : Status}

theorem Port.completeRetirement_halts (hq : P.queue = slot :: after) (he : st.isError = true) :
    P.completeRetirement st = { P.admitted after with state := .halted, haltEvent := true } := by
  simp [Port.completeRetirement, Port.admitted, hq, he]

theorem Port.completeRetirement_pauses (hq : P.queue = slot :: after) (he : st.isError = false)
    (hp : P.pausePending = true) :
    P.completeRetirement st = { P.admitted after with state := .paused, pauseReached := true } := by
  simp [Port.completeRetirement, Port.admitted, hq, he, hp]

theorem Port.completeRetirement_idles (hq : P.queue = slot :: after) (he : st.isError = false)
    (hp : P.pausePending = false) (hs : P.state ≠ .paused) :
    P.completeRetirement st = { P.admitted after with state := .idle } := by
  simp [Port.completeRetirement, Port.admitted, hq, he, hp, hs]

/-- A port that an admission halts starts no burst; resync discard turns DIR to INBOUND (R66, R82). -/
theorem Port.settle_admitted_halted (hafter : ∀ x ∈ after, x.stage = .queued) :
    ({ P.admitted after with state := .halted, haltEvent := true } : Port).settle =
      { P.admitted after with
        state := .halted, haltEvent := true
        dirLine := if P.resync && P.attached then .inbound else P.dirLine } := by
  refine Port.settle_of_idle_or_halted (.inr rfl) (Port.currentData_of_queued fun x hx => ?_)
  rw [hafter x (List.mem_of_mem_head? hx)]
  decide

/-! What an admission leaves at its port, the report queue `q` as its posting leaves it. -/

/-- An error status halts the port (R49, R61). -/
theorem State.serve_halted (hq : (s.port p).queue = slot :: after) (he : st.isError = true)
    (hafter : ∀ x ∈ after, x.stage = .queued) (q : ReportQueue) :
    ({ s.setPort p ((s.port p).completeRetirement st) with reports := q } : State).serve p =
      { s.setPort p { (s.port p).admitted after with
          state := .halted, haltEvent := true
          dirLine := if (s.port p).resync && (s.port p).attached then .inbound else (s.port p).dirLine } with
        reports := q } := by
  rw [Port.completeRetirement_halts hq he]
  exact (s.serve_replaced p (by simp) s.map q).trans
    (congrArg (fun P : Port => { s.setPort p P with reports := q }) (Port.settle_admitted_halted hafter))

/-- A pending pause brings the port to PAUSED (R41). -/
theorem State.serve_paused (hq : (s.port p).queue = slot :: after) (he : st.isError = false)
    (hp : (s.port p).pausePending = true) (q : ReportQueue) :
    ({ s.setPort p ((s.port p).completeRetirement st) with reports := q } : State).serve p =
      { s.setPort p { (s.port p).admitted after with state := .paused, pauseReached := true } with reports := q } := by
  rw [Port.completeRetirement_pauses hq he hp]
  exact State.serve_of_resting (.inl (by simp [State.port_mk]))

/-- Otherwise the port takes its next head (R22, R23, R61). -/
theorem State.serve_idled (hq : (s.port p).queue = slot :: after) (he : st.isError = false)
    (hp : (s.port p).pausePending = false) (hst : (s.port p).state ≠ .paused)
    (hf : s.map.leaveFence p = s.map ∨ (s.port p).skip = false) {next : Port}
    (hnext : Port.TakesHead { (s.port p).admitted after with state := .idle } next) (q : ReportQueue) :
    ({ s.setPort p ((s.port p).completeRetirement st) with reports := q } : State).serve p =
      { s.setPort p next with reports := q } := by
  rw [Port.completeRetirement_idles hq he hp hst]
  have hport : ({ s.setPort p { (s.port p).admitted after with state := .idle } with reports := q } : State).port p =
      { (s.port p).admitted after with state := .idle } := s.port_setPort_same p _
  rw [State.serve_of_takesHead (Q' := next) (by rw [hport]; exact hnext) (by rw [hport]) (by rw [hport]; exact hf)]
  exact congrArg (fun t : State => { t with reports := q }) (s.setPort_setPort p _ next)

end

/-- Settles O28: a POP of an empty queue, one that admits no port, and one that admits the front of the blocked list, by what
the admission makes of its port. -/
theorem popTaken : Obligations.PopTaken := by
  unfold Obligations.PopTaken
  intro s hs win
  refine ⟨fun h => (exec_pop hs).trans (congrArg _ (State.pop_empty h)), fun e rest h => ?_⟩
  intro stops removed
  refine ⟨fun hb => (exec_pop hs).trans (congrArg _ (State.pop_unblocked h hb)), ?_⟩
  intro p others st tag moved repeats messageEnd urgent d slot after rep P hb hheld hq hafter posted gone
  have hpop {Q : Port} (hserve : ({ s.setPort p (P.completeRetirement st) with reports := posted } : State).serve p =
      { s.setPort p Q with reports := posted }) :
      exec .pop s = .next { s.setPort p Q with reports := posted, win := win .accepted (rest.length + 1) } :=
    (exec_pop hs).trans (congrArg _ (State.pop_admits h hb hheld hserve))
  exact ⟨fun he => hpop (State.serve_halted hq he hafter posted),
    fun he hp => hpop (State.serve_paused hq he hp posted),
    fun he hp hst hf next hnext => hpop (State.serve_idled hq he hp hst (hf.symm.imp_left MapUnit.leaveFence_outside)
      hnext posted)⟩

end Sys2Proof.Machine
end

section
/-! The attention unit (chapter 10): which sources are eligible, what the acknowledge reads and EOS do to the level stack, and
the law of the level stack under every step. -/

namespace Sys2Proof.Machine

/-! ### Pending and eligible sources (R153, R154, R156) -/

section
variable {s : State}

theorem Port.attentionPending_iff (P : Port) :
    P.attentionPending = true ↔
      (P.haltEvent = true ∧ P.config.attnHalt = true) ∨ (P.attachChange = true ∧ P.config.attnAttach = true) ∨
        (P.pauseReached = true ∧ P.config.attnPause = true) := by
  simp [Port.attentionPending, or_assoc]

theorem MapUnit.attentionPending_iff (m : MapUnit) :
    m.attentionPending = true ↔
      (m.patchEnd = true ∧ m.mapEn.getLsbD 0 = true) ∨ (m.fenceEnd = true ∧ m.mapEn.getLsbD 1 = true) ∨
        (m.correctedFlag = true ∧ m.mapEn.getLsbD 2 = true) ∨ (m.poisonedFlag = true ∧ m.mapEn.getLsbD 3 = true) := by
  simp [MapUnit.attentionPending, or_assoc]

theorem State.sourcePending_port (s : State) (p : PortId) : s.sourcePending p.val = (s.port p).attentionPending :=
  dif_pos p.isLt

theorem State.sourcePending_report (s : State) : s.sourcePending 8 = s.reports.reportDue := rfl

theorem State.sourcePending_map (s : State) : s.sourcePending 9 = s.map.attentionPending := rfl

/-- LEVEL of a source is a base-4 digit of ALEVEL (Table 11-10). -/
theorem Attention.level_eq (a : Attention) (c : Nat) : a.level c = a.alevel.toNat / 4 ^ c % 4 := by
  rw [Attention.level, Nat.shiftRight_eq_div_pow, Nat.pow_mul]

theorem State.eligible_iff (s : State) (c : Nat) :
    s.eligible c = true ↔
      s.sourcePending c = true ∧ s.attn.amask.getLsbD (s.attn.level c) = false ∧ s.attn.level c < s.attn.csl := by
  simp [State.eligible, and_assoc]

theorem State.int_iff (s : State) :
    s.int = true ↔ s.win.attnEnable = true ∧ ∃ c : Fin 10, s.eligible c.val = true := by
  simp only [State.int, Bool.and_eq_true, List.any_eq_true, mem_sourceCodes, Fin.exists_iff, exists_prop]

/-! ### The chosen source (R157) -/

theorem State.eligible_of_chosenSource {c : Nat} (h : s.chosenSource = some c) : s.eligible c = true := by
  obtain ⟨l, -, hfind⟩ := List.exists_of_findSome?_eq_some h
  have htest := List.find?_some hfind
  exact (Bool.and_eq_true_iff.mp htest).1

/-- The choice passes over no level, so an eligible source leaves something to choose. -/
theorem State.exists_chosenSource {c : Fin 10} (h : s.eligible c.val = true) : ∃ c', s.chosenSource = some c' := by
  refine Option.ne_none_iff_exists'.mp fun hnone => ?_
  have hlevel : s.attn.level c.val ∈ [0, 1, 2, 3] := by
    have := s.attn.level_lt c.val
    simp only [List.mem_cons, List.not_mem_nil, or_false]
    omega
  have hfind := List.findSome?_eq_none_iff.mp hnone _ hlevel
  have htest := List.find?_eq_none.mp hfind c.val ((mem_sourceCodes _).mpr c.isLt)
  simp [h] at htest

theorem State.acknowledgeWord_some {c : Nat} (h : s.chosenSource = some c) :
    s.acknowledgeWord = BitVec.ofNat 32 (c + 256 * s.attn.level c) := by
  rw [State.acknowledgeWord, h]

theorem State.acknowledgeWord_none (h : s.chosenSource = none) : s.acknowledgeWord = 15 := by
  rw [State.acknowledgeWord, h]

/-! ### The acknowledge reads and EOS (R157 to R159) -/

theorem exec_ackpeek (hs : s.Live) : exec (.ackpeek false) s = .next (s.answerRead s.acknowledgeWord) :=
  congrArg Host.Outcome.next (State.windowRead_live hs _)

theorem exec_acknest (hs : s.Live) : exec (.acknest false) s = .next s.ackNest :=
  congrArg Host.Outcome.next (State.windowRead_live hs _)

theorem exec_eos (hs : s.Live) (v : Word) : exec (.eos v) s = .next { s with attn := s.attn.endService } :=
  congrArg Host.Outcome.next (State.unlessReset_live hs _)

/-- The part after an ACKNEST that chose source `c` with room on the stack (R158). -/
def State.nested (s : State) (c : Nat) : State :=
  { s with
    attn := { s.attn with stack := s.attn.csl :: s.attn.stack, csl := s.attn.level c }
    win := { s.win with hostRead := BitVec.ofNat 32 (c + 256 * s.attn.level c) } }

theorem State.ackNest_full (h : 4 ≤ s.attn.stack.length) :
    s.ackNest = { s with attn := { s.attn with overflow := true } }.answerRead 15 := if_pos h

theorem State.ackNest_none (h : s.attn.stack.length < 4) (hc : s.chosenSource = none) :
    s.ackNest = s.answerRead 15 := by
  rw [State.ackNest, if_neg (Nat.not_le.mpr h), hc]

theorem State.ackNest_some (h : s.attn.stack.length < 4) {c : Nat} (hc : s.chosenSource = some c) :
    s.ackNest = s.nested c := by
  rw [State.ackNest, if_neg (Nat.not_le.mpr h), hc, State.acknowledgeWord_some hc]
  rfl

theorem Attention.endService_nil {a : Attention} (h : a.stack = []) :
    a.endService = { a with csl := 4, underflow := true } := by
  rw [Attention.endService, h]

theorem Attention.endService_cons {a : Attention} {top : Nat} {rest : List Nat} (h : a.stack = top :: rest) :
    a.endService = { a with csl := top, stack := rest } := by
  rw [Attention.endService, h]

/-- EOS undoes the nesting: the interrupted level is CSL again (R159). -/
theorem State.endService_nested (s : State) (c : Nat) : (s.nested c).attn.endService = s.attn := rfl

end

/-- Settles O29, by Table 10-1 and the definitions of LEVEL, eligibility and INT. -/
theorem interruptFollowsSources : Obligations.InterruptFollowsSources := by
  unfold Obligations.InterruptFollowsSources
  intro s
  refine ⟨fun p => ?port, ?report, ?map, fun c => ⟨s.attn.level_eq c.val, ?eligible⟩, s.int_iff⟩
  case port => rw [s.sourcePending_port, Port.attentionPending_iff]
  case report => rw [s.sourcePending_report]
  case map => rw [s.sourcePending_map, MapUnit.attentionPending_iff]
  case eligible => rw [s.eligible_iff, Attention.level_eq]

/-- Settles O30, by what is chosen. -/
theorem ackPeekChooses : Obligations.AckPeekChooses := by
  unfold Obligations.AckPeekChooses
  intro s hs
  refine ⟨fun c hc hmin => ?chosen, fun hnone => ?nothing⟩ <;> rw [exec_ackpeek hs]
  case chosen => rw [State.acknowledgeWord_some (State.chosenSource_eq hc hmin)]; rfl
  case nothing => rw [State.acknowledgeWord_none (State.chosenSource_none hnone)]; rfl

/-- Settles O31, by the room on the stack and what is chosen. -/
theorem ackNestEnters : Obligations.AckNestEnters := by
  unfold Obligations.AckNestEnters
  intro s hs
  refine ⟨fun hfull => ?full, fun hroom => ⟨fun hnone => ?nothing, fun c hc hmin => ?chosen⟩⟩ <;> rw [exec_acknest hs]
  case full => rw [State.ackNest_full hfull]; rfl
  case nothing => rw [State.ackNest_none hroom (State.chosenSource_none hnone)]; rfl
  case chosen => rw [State.ackNest_some hroom (State.chosenSource_eq hc hmin)]; rfl

/-- Settles O32, by the stack that EOS meets; the EOS after an ACKNEST meets the level that it interrupted. -/
theorem endOfService : Obligations.EndOfService := by
  unfold Obligations.EndOfService
  intro v s hs
  refine ⟨fun top rest hstack => ?pops, fun hstack => ?underflows, fun c t hroom hc ht => ?undoes⟩
  case pops => rw [exec_eos hs, Attention.endService_cons hstack]
  case underflows => rw [exec_eos hs, Attention.endService_nil hstack]
  case undoes =>
    obtain ⟨c', hchosen⟩ := State.exists_chosenSource hc
    rw [exec_acknest hs, State.ackNest_some hroom hchosen] at ht
    obtain rfl := Host.Outcome.next.inj ht
    rw [exec_eos (s := s.nested c') hs, State.endService_nested]
    rfl

end Sys2Proof.Machine
end

section
/-! The attention unit under every step (R155): the operations of ports, reports, map unit and data path leave it alone, and
the commands of chapter 10 and the resets move the level stack in four ways, each of which keeps its law. -/

namespace Sys2Proof.Machine

/-! ### What leaves the attention unit alone -/

section
variable {s : State}

@[simp] theorem State.loadLatch_attn (s : State) (p : PortId) (l : Latch) : (s.loadLatch p l).attn = s.attn := by
  rw [State.loadLatch_eq]; rfl

@[simp] theorem State.post_attn (s : State) (p : PortId) : (s.post p).attn = s.attn := by
  unfold State.post
  split <;> simp

@[simp] theorem State.withdrawCurrent_attn (s : State) (p : PortId) (r : Record) :
    (s.withdrawCurrent p r).attn = s.attn := by
  unfold State.withdrawCurrent
  split_ifs <;> simp

@[simp] theorem State.withdraw_attn (s : State) (p : PortId) (tag : BitVec 16) : (s.withdraw p tag).attn = s.attn := by
  unfold State.withdraw
  repeat' split
  all_goals simp

@[simp] theorem State.enablePort_attn (s : State) (p : PortId) : (s.enablePort p).attn = s.attn := by
  unfold State.enablePort
  split <;> simp

@[simp] theorem State.disablePort_attn (s : State) (p : PortId) : (s.disablePort p).attn = s.attn := by
  unfold State.disablePort
  split <;> simp

@[simp] theorem State.pausePort_attn (s : State) (p : PortId) : (s.pausePort p).attn = s.attn := by
  unfold State.pausePort
  repeat' split
  all_goals simp

@[simp] theorem State.resumeHeld_attn (s : State) (p : PortId) (r : Record) : (s.resumeHeld p r).attn = s.attn := by
  unfold State.resumeHeld
  split <;> simp

@[simp] theorem State.resumePort_attn (s : State) (op : BitVec 4) (halted : Port → Port) (p : PortId) :
    (s.resumePort op halted p).attn = s.attn := by
  unfold State.resumePort
  repeat' split
  all_goals simp

@[simp] theorem State.postFlushed_attn (s : State) (p : PortId) (n : Nat) : (s.postFlushed p n).attn = s.attn := by
  unfold State.postFlushed
  split <;> rfl

@[simp] theorem State.flushPort_attn (s : State) (p : PortId) : (s.flushPort p).attn = s.attn := by
  unfold State.flushPort State.flushTaken
  repeat' split
  all_goals simp

@[simp] theorem State.resetPort_attn (s : State) (p : PortId) : (s.resetPort p).attn = s.attn := by
  unfold State.resetPort
  split <;> rfl

@[simp] theorem State.hostPatch_attn (s : State) (p : PortId) : (s.hostPatch p).attn = s.attn := by
  unfold State.hostPatch
  split_ifs <;> simp

@[simp] theorem State.fence_attn (s : State) : s.fence.attn = s.attn := by
  unfold State.fence
  split <;> rfl

@[simp] theorem State.admitFirst_attn (s : State) : s.admitFirst.attn = s.attn := by
  unfold State.admitFirst
  repeat' split
  all_goals simp

@[simp] theorem State.pop_attn (s : State) : s.pop.attn = s.attn := by
  unfold State.pop
  split <;> simp

@[simp] theorem State.deliver_attn (s : State) (p : PortId) (w : Work) (v : Word) : (s.deliver p w v).attn = s.attn := by
  unfold State.deliver
  split_ifs <;> simp

@[simp] theorem State.afterSending_attn (s : State) (p : PortId) (w : Work) : (s.afterSending p w).attn = s.attn := by
  simp only [State.afterSending]
  split_ifs <;> simp

@[simp] theorem State.confirmed_attn (s : State) (p : PortId) (w : Work) : (s.confirmed p w).attn = s.attn := by
  simp only [State.confirmed]
  split_ifs <;> simp

@[simp] theorem State.cutAccessEnd_attn (s : State) (p : PortId) (w : Work) (c : Cut) (outcome : AccessOutcome) :
    (s.cutAccessEnd p w c outcome).attn = s.attn := by
  simp only [State.cutAccessEnd]
  cases c <;> simp [apply_ite State.attn]

@[simp] theorem State.moveAccessEnd_attn (s : State) (p : PortId) (w : Work) (outcome : AccessOutcome) :
    (s.moveAccessEnd p w outcome).attn = s.attn := by
  unfold State.moveAccessEnd
  repeat' split
  all_goals simp

@[simp] theorem State.resettingReleased_attn (s : State) (p : PortId) : (s.resettingReleased p).attn = s.attn := rfl

@[simp] theorem State.startMove_attn (s : State) (p : PortId) (w : Work) : (s.startMove p w).attn = s.attn := by
  simp only [State.startMove]
  split_ifs <;> simp

@[simp] theorem State.grantPort_attn (s : State) (c : PortClass) (p : PortId) : (s.grantPort c p).attn = s.attn := by
  unfold State.grantPort
  split <;> simp

@[simp] theorem State.grantFetch_attn (s : State) : s.grantFetch.attn = s.attn := by
  unfold State.grantFetch
  split <;> rfl

@[simp] theorem State.lookup_attn (s : State) (p : PortId) (w : Work) (dir : Direction) :
    (s.lookup p w dir).attn = s.attn := by
  simp only [State.lookup, State.lookupFaulted, State.lookupPassed]
  repeat' split
  all_goals simp

@[simp] theorem State.patchEnded_attn (s : State) (f : Flight) (outcome : PatchOutcome) (st : Status) (d : Detail) :
    (s.patchEnded f outcome st d).attn = s.attn := by
  simp only [State.patchEnded]
  repeat' split
  all_goals simp

@[simp] theorem State.patchWord_attn (s : State) (f : Flight) (w : Word) : (s.patchWord f w).attn = s.attn := by
  simp only [State.patchWord, State.patchRejected, State.patchApplied, State.fetchNext]
  repeat' split
  all_goals simp

@[simp] theorem State.patchReadEnd_attn (s : State) (outcome : AccessOutcome) :
    (s.patchReadEnd outcome).attn = s.attn := by
  simp only [State.patchReadEnd, State.patchRejected]
  repeat' split
  all_goals simp

theorem State.clockCycle_attn (s : State) : s.clockCycle.attn = s.attn := by
  unfold State.clockCycle
  split_ifs <;> rfl

end

/-! ### What a step does to the level stack (R155, R158, R159) -/

/-- What a step can do to CSL and the stack: leave them, enter a level below CSL, return to the interrupted level, or drop
every level. -/
inductive Attention.Moves (a : Attention) : Attention → Prop where
  | stays {b : Attention} (hcsl : b.csl = a.csl) (hstack : b.stack = a.stack) : Moves a b
  | enters {b : Attention} (hlt : b.csl < a.csl) (hstack : b.stack = a.csl :: a.stack) : Moves a b
  | returns {b : Attention} (hstack : a.stack = b.csl :: b.stack) : Moves a b
  | empties {b : Attention} (hcsl : b.csl = 4) (hstack : b.stack = []) : Moves a b

theorem Attention.Moves.of_eq {a b : Attention} (h : b = a) : a.Moves b := h ▸ .stays rfl rfl

/-- Each of the four moves leaves a stack that is strictly nested down to BASE. -/
theorem Attention.Moves.keeps_law {a b : Attention} (h : a.Moves b) (ha : a.Law) : b.Law := by
  obtain ⟨hnested, hbase⟩ := ha
  cases h with
  | stays hcsl hstack => rw [Attention.Law, hcsl, hstack]; exact ⟨hnested, hbase⟩
  | enters hlt hstack =>
    rw [Attention.Law, hstack, List.getLast?_cons_cons]
    refine ⟨List.pairwise_cons.mpr ⟨fun l hl => ?_, hnested⟩, hbase⟩
    rcases List.mem_cons.mp hl with rfl | hl
    · exact hlt
    · exact hlt.trans (List.rel_of_pairwise_cons hnested hl)
  | returns hstack =>
    rw [hstack, List.getLast?_cons_cons] at hbase
    rw [hstack] at hnested
    exact ⟨hnested.of_cons, hbase⟩
  | empties hcsl hstack => rw [Attention.Law, hcsl, hstack]; decide

theorem Attention.endService_moves (a : Attention) : a.Moves a.endService := by
  cases hstack : a.stack with
  | nil => rw [Attention.endService_nil hstack]; exact .empties rfl hstack
  | cons top rest => rw [Attention.endService_cons hstack]; exact .returns hstack

section
variable {s : State}

/-- An ACKNEST enters the level of an eligible source, which lies below CSL (R156, R158). -/
theorem State.ackNest_moves (s : State) : s.attn.Moves s.ackNest.attn := by
  by_cases hfull : 4 ≤ s.attn.stack.length
  · rw [State.ackNest_full hfull]; exact .stays rfl rfl
  · have hroom : s.attn.stack.length < 4 := Nat.not_le.mp hfull
    cases hchosen : s.chosenSource with
    | none => rw [State.ackNest_none hroom hchosen]; exact .stays rfl rfl
    | some c =>
      obtain ⟨-, -, hbelow⟩ := (s.eligible_iff c).mp (State.eligible_of_chosenSource hchosen)
      rw [State.ackNest_some hroom hchosen]
      exact .enters hbelow rfl

theorem State.plainWrite_moves (s : State) (offset : BitVec 8) (v : Word) :
    s.attn.Moves (s.plainWrite offset v).attn := by
  unfold State.plainWrite
  repeat' split
  all_goals exact .stays rfl rfl

/-! The gates of the window, and a line event. -/

theorem State.unlessReset_moves {f : State → State} (h : s.attn.Moves (f s).attn) :
    s.attn.Moves (s.unlessReset f).attn := by
  unfold State.unlessReset
  split
  · exact .of_eq rfl
  · exact h

theorem State.windowRead_moves {narrow : Bool} {f : State → State} (h : s.attn.Moves (f s).attn) :
    s.attn.Moves (s.windowRead narrow f).attn := by
  unfold State.windowRead
  split
  · exact .of_eq rfl
  · exact h

theorem State.command_attn {op : BitVec 4} {f : State → State} (h : (f s).attn = s.attn) :
    (s.command op f).attn = s.attn := by
  unfold State.command State.unlessReset
  split
  · rfl
  · dsimp only
    split
    · rfl
    · exact h

theorem State.portCommand_attn {op port : BitVec 4} {f : PortId → State → State} (h : ∀ p, (f p s).attn = s.attn) :
    (s.portCommand op port f).attn = s.attn := by
  refine State.command_attn ?_
  split
  · rfl
  · exact h _

theorem State.lineEvent_attn {p : PortId} {level : Port → Port} {f : State → State}
    (h : ∀ t : State, (f t).attn = t.attn) : (s.lineEvent p level f).attn = s.attn := by
  unfold State.lineEvent
  split
  · rfl
  · exact h _

end

/-- Every command moves the level stack in one of the four ways. -/
theorem exec_moves {c : Instr} {s t : State} (h : exec c s = .next t) : s.attn.Moves t.attn := by
  cases c <;> obtain rfl := Host.Outcome.next.inj h
  case post => exact .of_eq (State.portCommand_attn s.post_attn)
  case withdraw tag => exact .of_eq (State.portCommand_attn fun p => s.withdraw_attn p tag)
  case enable => exact .of_eq (State.portCommand_attn s.enablePort_attn)
  case disable => exact .of_eq (State.portCommand_attn s.disablePort_attn)
  case pause => exact .of_eq (State.portCommand_attn s.pausePort_attn)
  case resumeRecord => exact .of_eq (State.portCommand_attn (s.resumePort_attn 6 id))
  case resumeMessage => exact .of_eq (State.portCommand_attn (s.resumePort_attn 7 Port.skipMessage))
  case flush => exact .of_eq (State.portCommand_attn s.flushPort_attn)
  case portReset => exact .of_eq (State.portCommand_attn s.resetPort_attn)
  case patch => exact .of_eq (State.portCommand_attn s.hostPatch_attn)
  case fence => exact .of_eq (State.command_attn s.fence_attn)
  case pop => exact .of_eq (State.command_attn s.pop_attn)
  case attach => exact .of_eq (State.lineEvent_attn fun t => by simp)
  case detach => exact .of_eq (State.lineEvent_attn fun t => by simp)
  case rdyRise => exact .of_eq (State.lineEvent_attn fun t => rfl)
  case rdyFall => exact .of_eq (State.lineEvent_attn fun t => by split <;> simp)
  case powerOnReset => exact .empties rfl rfl
  case resetAsserted => exact .of_eq rfl
  case ackpeek => exact State.windowRead_moves (.of_eq rfl)
  case acknest => exact State.windowRead_moves s.ackNest_moves
  case mapdataRead => exact State.windowRead_moves (.of_eq (by split <;> rfl))
  all_goals refine State.unlessReset_moves ?_
  case softReset =>
    split
    · exact .of_eq rfl
    · exact .empties rfl rfl
  case eos => exact s.attn.endService_moves
  case astatClear => exact .stays rfl rfl
  case registerWrite offset narrow v =>
    split_ifs
    · exact .of_eq rfl
    · exact .of_eq rfl
    · exact s.plainWrite_moves offset v
  -- What is left are branches of operations that leave the attention unit alone.
  all_goals refine .of_eq ?_
  case timeUnitStep => rfl
  all_goals repeat' split
  all_goals simp

/-- Every step moves the level stack in one of the four ways; the time base leaves it alone. -/
theorem step_moves {s t : State} (h : step s = .next t) : s.attn.Moves t.attn := by
  unfold step at h
  split at h
  next => obtain rfl := Host.Outcome.next.inj h; exact .of_eq s.clockCycle_attn
  next c rest _ => exact exec_moves (s := { s with pending := rest }) h

/-- Settles O54: each of the four ways in which a step moves the level stack keeps its law. -/
theorem levelStackKept : Obligations.LevelStackKept := by
  unfold Obligations.LevelStackKept
  exact fun s t hs hstep => (step_moves hstep).keeps_law hs

end Sys2Proof.Machine
end

section
/-! A step with a command waiting, and the time base while none waits (R79, R162, R164). -/

namespace Sys2Proof.Machine

section
variable {s : State}

theorem step_of_front {c : Instr} {rest : List Instr} (h : s.pending = c :: rest) :
    step s = exec c { s with pending := rest } := by
  rw [step, h]

theorem step_of_idle (h : s.pending = []) : step s = .next s.clockCycle := by
  rw [step, h]

/-! ### What the part does while no command waits -/

theorem State.clockCycle_expires (hs : s.Live) (h : s.dueExpiries ≠ []) :
    s.clockCycle = { s with pending := s.pending ++ s.dueExpiries } := by
  rw [State.clockCycle, if_neg (ne_true_of_eq_false hs), if_pos h]

theorem State.clockCycle_counts (hs : s.Live) (h : s.dueExpiries = []) (hlt : s.time.clkCount + 1 < s.time.stepLength) :
    s.clockCycle = { s with time := { s.time with clkCount := s.time.clkCount + 1 } } := by
  rw [State.clockCycle, if_neg (ne_true_of_eq_false hs), if_neg (not_not.mpr h), if_pos hlt]

theorem State.clockCycle_ends (hs : s.Live) (h : s.dueExpiries = []) (hle : s.time.stepLength ≤ s.time.clkCount + 1) :
    s.clockCycle = s.microStep := by
  rw [State.clockCycle, if_neg (ne_true_of_eq_false hs), if_neg (not_not.mpr h), if_neg (Nat.not_lt.mpr hle)]

/-! ### The 1 µs step (R79, R164) -/

/-- A hold of CAN is due at the step that follows its first (R79). -/
theorem Port.canStep_canDue_iff (P : Port) : P.canStep.canDue = true ↔ ∃ k, P.can = some k ∧ 1 ≤ k := by
  cases h : P.can with
  | none => simp [Port.canDue, Port.canStep, h]
  | some k =>
    simp only [Port.canDue, Port.canStep, h, Option.map_some, decide_eq_true_eq, Option.some.injEq, exists_eq_left']
    omega

theorem State.canRelease_mem_canReleases (s : State) (p : PortId) :
    Instr.canRelease p ∈ s.canReleases ↔ (s.port p).canDue = true := by
  simp [State.canReleases, mem_allPorts]

theorem State.timeUnitStep_notMem_canReleases (s : State) : Instr.timeUnitStep ∉ s.canReleases := by
  simp [State.canReleases]

theorem State.microStep_port (s : State) (p : PortId) : s.microStep.port p = (s.port p).canStep := s.port_mapPorts _ p

theorem State.microStep_pending (s : State) :
    s.microStep.pending = s.pending ++ (s.mapPorts fun _ => Port.canStep).canReleases ++
      (if s.time.stepCount + 1 == 64 then [.timeUnitStep] else []) := rfl

theorem State.timeUnitStep_mem_microStep (h : s.pending = []) :
    Instr.timeUnitStep ∈ s.microStep.pending ↔ s.time.stepCount + 1 = 64 := by
  rw [State.microStep_pending, h]
  split
  next hunit => simpa using beq_iff_eq.mp hunit
  next hunit => simpa [State.timeUnitStep_notMem_canReleases] using hunit

theorem State.canRelease_mem_microStep (h : s.pending = []) (p : PortId) :
    Instr.canRelease p ∈ s.microStep.pending ↔ ∃ k, (s.port p).can = some k ∧ 1 ≤ k := by
  rw [← Port.canStep_canDue_iff, ← s.port_mapPorts (fun _ => Port.canStep), ← State.canRelease_mem_canReleases,
    State.microStep_pending, h]
  split <;> simp

end

/-- Settles O1. -/
theorem stepRunsFrontCommand : Obligations.StepRunsFrontCommand := by
  unfold Obligations.StepRunsFrontCommand
  exact fun _ _ _ => step_of_front

/-- Settles O2, by the three cases of a step without a command. -/
theorem stepWithoutCommand : Obligations.StepWithoutCommand := by
  unfold Obligations.StepWithoutCommand
  intro s hidle hs
  rw [step_of_idle hidle]
  refine ⟨fun hdue => ?expires, fun hdue hlt => ?counts, fun hdue hle => ?ends⟩
  case expires => rw [State.clockCycle_expires hs hdue, hidle, List.nil_append]
  case counts => rw [State.clockCycle_counts hs hdue hlt]
  case ends =>
    rw [State.clockCycle_ends hs hdue hle]
    refine ⟨_, rfl, ?_, s.microStep_port, State.timeUnitStep_mem_microStep hidle, State.canRelease_mem_microStep hidle,
      rfl, rfl, rfl, rfl, rfl, rfl⟩
    simp [State.microStep]

end Sys2Proof.Machine
end

section
/-! The gates of the window (R24, R166) and its W1C registers (R163). -/

namespace Sys2Proof.Machine

/-! ### The gates (R24, R166) -/

theorem exec_badCommand {s : State} (hs : s.Live) (op : BitVec 4) :
    exec (.badCommand op) s = .next (s.refuse op .badCommand 0) :=
  congrArg Host.Outcome.next (State.unlessReset_live hs _)

/-- A command that names a port is a meaning behind the gate of port commands, for every state (R24). -/
theorem exec_of_namesPort {c : Instr} {op port : BitVec 4} (h : NamesPort c op port) :
    ∃ f, ∀ s, exec c s = .next (s.portCommand op port f) := by
  cases h <;> exact ⟨_, fun _ => rfl⟩

/-- A defined command other than SOFT RESET is a meaning behind the gate of commands, for every state (R166). -/
theorem exec_of_definedCommand {c : Instr} {op : BitVec 4} (h : DefinedCommand c op) :
    ∃ f, ∀ s, exec c s = .next (s.command op f) := by
  cases h with
  | namesPort hport =>
    obtain ⟨f, hf⟩ := exec_of_namesPort hport
    exact ⟨_, hf⟩
  | fence => exact ⟨_, fun _ => rfl⟩
  | pop => exact ⟨_, fun _ => rfl⟩

/-- Settles O5, gate by gate. -/
theorem windowGates : Obligations.WindowGates := by
  unfold Obligations.WindowGates
  intro s hs refused
  refine ⟨fun op _ => exec_badCommand hs op, fun c op hc hbusy => ?busy, fun c op port hc hport hready => ?badPort⟩
  case busy =>
    obtain ⟨f, hf⟩ := exec_of_definedCommand hc
    exact (hf s).trans (congrArg _ (State.command_busy hs hbusy op f))
  case badPort =>
    obtain ⟨f, hf⟩ := exec_of_namesPort hc
    exact (hf s).trans (congrArg _ (State.portCommand_badPort hready hport op f))

/-! ### W1C registers (R42, R125, R151, R160, R163) -/

/-- Settles O33: with RESET released each of the five writes is taken, and clears what Tables 11-8 to 11-10 name. -/
theorem statusFieldsCleared : Obligations.StatusFieldsCleared := by
  unfold Obligations.StatusFieldsCleared
  intro p v s hs
  have taken (f : State → State) : Host.Outcome.next (φ := Fault) (ρ := Refusal) (s.unlessReset f) = .next (f s) :=
    congrArg _ (State.unlessReset_live hs f)
  exact ⟨taken _, taken _, taken _, taken _, taken _⟩

end Sys2Proof.Machine
end

section
/-! RESET held, its release (R168), and SOFT RESET (R167). -/

namespace Sys2Proof.Machine

/-! ### While RESET is held (R168, log 10) -/

/-- A change of a port's context that reaches the levels of ATT and RDY alone. -/
def Port.SetsLevels (level : Port → Port) : Prop :=
  ∀ P, level P = { P with attLine := (level P).attLine, rdyLine := (level P).rdyLine }

/-- What a command other than a RESET event can do while RESET is held: nothing, answer a read with 0, or let an input level
change. -/
inductive State.HeldStep (s : State) : State → Prop where
  | nothing : HeldStep s s
  | readsZero : HeldStep s (s.answerRead 0)
  | level (p : PortId) {level : Port → Port} (h : Port.SetsLevels level) : HeldStep s (s.modPort p level)

section
variable {s : State}

theorem State.unlessReset_heldStep (h : s.win.resetHeld = true) (f : State → State) : s.HeldStep (s.unlessReset f) := by
  rw [State.unlessReset_held h]
  exact .nothing

theorem State.portCommand_heldStep (h : s.win.resetHeld = true) (op port : BitVec 4) (f : PortId → State → State) :
    s.HeldStep (s.portCommand op port f) := by
  rw [State.portCommand, State.command]
  exact State.unlessReset_heldStep h _

theorem State.windowRead_heldStep (h : s.win.resetHeld = true) (narrow : Bool) (f : State → State) :
    s.HeldStep (s.windowRead narrow f) := by
  rw [State.windowRead, if_pos (by simp [h])]
  exact .readsZero

theorem State.lineEvent_heldStep (h : s.win.resetHeld = true) (p : PortId) {level : Port → Port}
    (hlevel : Port.SetsLevels level) (f : State → State) : s.HeldStep (s.lineEvent p level f) := by
  rw [State.lineEvent, if_pos h]
  exact .level p hlevel

/-- RESET_ASSERTED finds RESET held already. -/
theorem exec_resetAsserted_held (h : s.win.resetHeld = true) : exec .resetAsserted s = .next s := by
  have hwin : { s.win with resetHeld := true } = s.win := by rw [← h]
  exact congrArg (fun w => Host.Outcome.next { s with win := w }) hwin

/-- While RESET is held, the gate that each command passes first lets it take no effect. -/
theorem exec_held (h : s.win.resetHeld = true) {c : Instr} (hc : c ≠ .powerOnReset) :
    ∃ t, exec c s = .next t ∧ s.HeldStep t := by
  cases c
  case powerOnReset => exact absurd rfl hc
  case resetAsserted => exact ⟨s, exec_resetAsserted_held h, .nothing⟩
  case ackpeek => exact ⟨_, rfl, State.windowRead_heldStep h _ _⟩
  case acknest => exact ⟨_, rfl, State.windowRead_heldStep h _ _⟩
  case mapdataRead => exact ⟨_, rfl, State.windowRead_heldStep h _ _⟩
  case attach p => exact ⟨_, rfl, State.lineEvent_heldStep h p (fun _ => rfl) _⟩
  case detach p => exact ⟨_, rfl, State.lineEvent_heldStep h p (fun _ => rfl) _⟩
  case rdyRise p => exact ⟨_, rfl, State.lineEvent_heldStep h p (fun _ => rfl) _⟩
  case rdyFall p => exact ⟨_, rfl, State.lineEvent_heldStep h p (fun _ => rfl) _⟩
  case post | withdraw | enable | disable | pause | resumeRecord | resumeMessage | flush | portReset | patch =>
    exact ⟨_, rfl, State.portCommand_heldStep h _ _ _⟩
  all_goals exact ⟨_, rfl, State.unlessReset_heldStep h _⟩

end

/-- Settles O6: whatever `State.HeldStep` allows leaves every block but the input levels and the host bus. -/
theorem heldResetTakesNothing : Obligations.HeldResetTakesNothing := by
  unfold Obligations.HeldResetTakesNothing
  intro c s h hc
  obtain ⟨t, hexec, hstep⟩ := exec_held h hc
  refine ⟨t, hexec, ?_⟩
  cases hstep with
  | nothing => exact ⟨fun _ => rfl, rfl, .inl rfl, rfl, rfl, rfl, rfl, rfl, rfl, rfl⟩
  | readsZero => exact ⟨fun _ => rfl, rfl, .inr rfl, rfl, rfl, rfl, rfl, rfl, rfl, rfl⟩
  | level p hlevel =>
    refine ⟨fun q => ?_, rfl, .inl rfl, rfl, rfl, rfl, rfl, rfl, rfl, rfl⟩
    by_cases hq : q = p
    · subst hq
      rw [State.port_modPort_same]
      exact hlevel _
    · rw [State.port_modPort_ne s _ hq]

/-! ### The RESET line (R168) -/

/-- Settles O7. -/
theorem resetLineTaken : Obligations.ResetLineTaken := by
  unfold Obligations.ResetLineTaken
  refine fun s => ⟨rfl, _, rfl, fun p => ?_, rfl, rfl, rfl, rfl, rfl, rfl, rfl, rfl⟩
  rw [State.port_reset]
  exact s.port_mapPorts _ p

/-! ### SOFT RESET (R166, R167) -/

section
variable {s : State}

theorem exec_softReset_busy (hs : s.Live) (h : s.win.initBusy = true) :
    exec .softReset s = .next (s.refuse 15 .busy 0) :=
  congrArg Host.Outcome.next ((State.unlessReset_live hs _).trans (if_pos h))

theorem exec_softReset_taken (hs : s.Live) (h : s.win.initBusy = false) :
    exec .softReset s = .next (s.softReset.accept 15 (bitOf s.softReset.win.resetBusy)) :=
  congrArg Host.Outcome.next ((State.unlessReset_live hs _).trans (if_neg (ne_true_of_eq_false h)))

/-- The data path stays held by a port, and by a patch fetch whose read is under way (R98, R109, R137). -/
theorem State.heldOver_iff (s : State) :
    s.heldOver = true ↔
      s.arbiter.holder ≠ .none ∧ (s.arbiter.holder = .patchFetch → s.access.isSome = true) := by
  cases h : s.arbiter.holder <;> simp [State.heldOver, h]

theorem State.softReset_port (s : State) (p : PortId) :
    s.softReset.port p = (s.port p).softReset (s.stateAfterReset p) := s.port_mapPorts _ p

/-- A port after SOFT RESET (R43, R46): the power-on context but for its state, the input levels and CAN. -/
theorem Port.softReset_eq (st : PortState) (p : PortId) (P : Port) :
    P.softReset st = { State.reset.port p with
      state := st, attached := P.attLine, attLine := P.attLine, rdyLine := P.rdyLine
      can := if (P.msgOpen = true ∨ P.skip = true) ∧ P.msgDir = .outbound ∧ P.wordsPassed = true ∧
        P.endPassed = false then some 0 else none } := by
  simp only [State.port_reset, ← Bool.or_eq_true, ← P.openBroken_iff]
  rfl

/-- The data path and the window after SOFT RESET, the path held over (R109, R167). -/
theorem State.softReset_held (hs : s.Live) (h : s.heldOver = true) :
    s.softReset.arbiter = ⟨s.arbiter.holder, 7, 7, 0⟩ ∧ s.softReset.access = s.access ∧
      s.softReset.win = { HostWindow.powerOn with
        initBusy := false, resetBusy := true, result := s.win.result, hostRead := s.win.hostRead } := by
  have hline : s.win.resetHeld = false := hs
  simp [State.softReset, HostWindow.softReset, h, hline, Arbiter.powerOn, HostWindow.powerOn]

/-- The data path and the window after SOFT RESET, the path free (R109, R167). -/
theorem State.softReset_free (hs : s.Live) (h : s.heldOver = false) :
    s.softReset.arbiter = ⟨.none, 7, 7, 0⟩ ∧ s.softReset.access = none ∧
      s.softReset.win = { HostWindow.powerOn with
        initBusy := false, resetBusy := false, result := s.win.result, hostRead := s.win.hostRead } := by
  have hline : s.win.resetHeld = false := hs
  simp [State.softReset, HostWindow.softReset, h, hline, Arbiter.powerOn, HostWindow.powerOn]

theorem State.accept_win (s : State) (op : BitVec 4) (v : Nat) :
    (s.accept op v).win = { s.win with result := ⟨op, .accepted, v⟩ } := rfl

end

/-- Settles O8, block by block. -/
theorem softResetTaken : Obligations.SoftResetTaken := by
  unfold Obligations.SoftResetTaken
  intro s hs
  refine ⟨exec_softReset_busy hs, fun hinit => ?_⟩
  intro held
  refine ⟨_, exec_softReset_taken hs hinit, fun p => ?port, rfl, rfl, rfl, rfl, rfl, fun hheld => ?held,
    fun hfree => ?free⟩
  case port => exact (s.softReset_port p).trans (Port.softReset_eq _ p _)
  case held =>
    obtain ⟨harbiter, haccess, hwin⟩ := State.softReset_held hs (s.heldOver_iff.mpr hheld)
    refine ⟨harbiter, haccess, ?_⟩
    rw [State.accept_win, hwin]
    rfl
  case free =>
    obtain ⟨harbiter, haccess, hwin⟩ := State.softReset_free hs (Bool.eq_false_iff.mpr (mt s.heldOver_iff.mp hfree))
    refine ⟨harbiter, haccess, ?_⟩
    rw [State.accept_win, hwin]
    rfl

end Sys2Proof.Machine
end

section
/-! The state right after reset is sound: each block's law at its power-on values, and the laws that tie blocks together over
eight ports that are alike (`State.port_reset`). -/

namespace Sys2Proof.Machine

/-! ### The pool, the data path and the blocked list over eight ports at power-on -/

/-- Every queue is empty, so no slot of the pool is occupied (Table 2-6, R14). -/
theorem State.occupied_reset : State.reset.occupied = 0 := by
  have hqueue (p : PortId) : (State.reset.port p).queue.length = 0 := by rw [State.port_reset]; rfl
  rw [State.occupied_eq_sum]
  exact Finset.sum_eq_zero fun p _ => hqueue p

/-- No port bursts or waits in RESETTING, and the data path is free with no access under way (Tables 2-1 and 6-1). -/
theorem State.holderLaw_reset : State.reset.HolderLaw := by
  refine ⟨fun p => ?ports, nofun, nofun, nofun, Nat.zero_le _⟩
  case ports =>
    have hholder : State.reset.arbiter.holder ≠ .port p := nofun
    have hnone : ¬(Port.powerOn.transfersMove = true ∨ Port.powerOn.state = .resetting) := by decide
    rw [State.port_reset]
    exact iff_of_false hholder hnone

/-- Every port is DISABLED, none is on the list (Table 2-1, R143). -/
theorem State.blockedLaw_reset : State.reset.BlockedLaw := by
  refine ⟨List.nodup_nil, fun p => ?listed, fun hlisted => absurd rfl hlisted⟩
  case listed =>
    have hstate : (State.reset.port p).state ≠ .blocked := by rw [State.port_reset]; decide
    exact iff_of_false List.not_mem_nil hstate

/-! ### The report queue and the level stack at power-on -/

/-- An empty queue, its THRESHOLD 1 and its holdoff timer stopped (Table 9-1). -/
theorem ReportQueue.law_powerOn : ReportQueue.powerOn.Law :=
  ⟨Nat.zero_le _, le_rfl, by decide, Nat.zero_le _, List.Pairwise.nil, by decide, by decide, nofun⟩

/-- CSL is BASE, and no level is interrupted (Table 10-2, R155). -/
theorem Attention.law_powerOn : Attention.powerOn.Law := ⟨List.pairwise_singleton _ _, rfl⟩

/-! ### The whole part -/

/-- Settles O4, law by law. -/
theorem soundAtReset : Obligations.SoundAtReset := by
  unfold Obligations.SoundAtReset
  have hports (p : PortId) : (State.reset.port p).Law := by rw [State.port_reset]; exact Port.law_powerOn
  have hpool : State.reset.PoolLaw := State.occupied_reset.trans_le (Nat.zero_le _)
  obtain ⟨htable, hfence⟩ : State.reset.MapLaw := State.mapLaw_powerOn _ _
  exact ⟨hports, hpool, State.holderLaw_reset, ReportQueue.law_powerOn, State.blockedLaw_reset, htable, hfence,
    Attention.law_powerOn⟩

end Sys2Proof.Machine
end
